-- ==== Sys2Proof/Word.lean ====
section
/-!
DEFINITION. The two word types of the block: a stream or memory byte, and a 32-bit register of the window
(spec/20_memory.md R58, R60).
-/
namespace Sys2Proof

/-- One byte of `IN_MEM`, of `OUT_MEM` or of the compressed stream (R60). -/
abbrev Byte := BitVec 8

/-- One 32-bit register of the register window (R23, R58). -/
abbrev Word := BitVec 32

end Sys2Proof
end

