-- ==== Sys2Proof/Config.lean ====
section
/-!
DEFINITION. What an implementation fixes (spec/00_scope.md R8 to R10) and the free values (spec/93_implementation_defined.md
Part 1, the rows treated "any value").

The four parameters are OPEN (spec/92_eei_decisions.md D1 to D3). They are plain data of one block, held in `State.params`,
so every statement about a state holds for every choice of them (DESIGN CHOICE, notes/assumptions/1.md). The block that
`State.reset` describes has the parameters `Config.params`, made from constants with no body: nothing can be proved of them
but that they are legal.
-/
namespace Sys2Proof

/-- The size of the all-literal stream of the largest declared length: 4 header bytes, 16777215 literals, 2097152 flags
bytes and 3 padding bytes. `MAX_IN_LEN` is never smaller (R9). -/
def worstCaseStream : Nat := 18874374

/-- The implementation parameters (R8, R9, R10). -/
structure Params where
  /-- `TAG_A`: the header tag that selects variant A (R8). -/
  tagA : Byte
  /-- `TAG_B`: the header tag that selects variant B (R8). -/
  tagB : Byte
  /-- How far `MAX_IN_LEN` lies above its lower bound (R9). -/
  inExtra : Nat
  /-- `OUT_CAP`: the byte size of `OUT_MEM`, 0..2^24 - 1 (R10). -/
  outCap : BitVec 24
  deriving DecidableEq, Repr

/-- `MAX_IN_LEN`: the largest stream, and the byte size of `IN_MEM` (R9). -/
def Params.maxInLen (p : Params) : Nat := worstCaseStream + p.inExtra

/-- The constraints a conforming choice of parameters meets (R8, R9); `worstCaseStream <= MAX_IN_LEN` and R10's range of
`OUT_CAP` hold by construction. -/
abbrev Params.Legal (p : Params) : Prop :=
  p.tagA ≠ p.tagB ∧ p.tagA ≠ 0x99 ∧ p.tagB ≠ 0x99 ∧ p.maxInLen ≤ 2 ^ 32 - 4

/-- The tag values of the block, `TAG_A` first: no value is given (R8, D1). -/
opaque Config.freeTags : Byte × Byte

/-- Decides `MAX_IN_LEN` among the values R9 allows: no value is given (D2). -/
opaque Config.freeInExtra : Nat

/-- `OUT_CAP`: any value R10 allows (D3). -/
opaque Config.freeOutCap : BitVec 24

/-- What a byte of `IN_MEM` that nothing has written since reset number `epoch` holds: any value (R21,
R252; notes/assumptions/2.md). -/
opaque Config.inMemFree : (epoch addr : Nat) → Byte

/-- What a byte of `OUT_MEM` that nothing has written since reset number `epoch` holds: any value (R22,
R252; notes/assumptions/2.md). -/
opaque Config.outMemFree : (epoch addr : Nat) → Byte

/-- What a host read of `OUT_MEM` while BUSY returns: a draw under no law, a fresh one at each read (R254 (c);
notes/assumptions/7.md). -/
opaque Config.busyRead : (draw : Nat) → Byte

/-- `TAG_A` and `TAG_B`: every pair R8 allows, and no other. The pair after `else` only stands where the free pair
breaks R8's constraints. -/
def Config.tags : Byte × Byte :=
  if Config.freeTags.1 ≠ Config.freeTags.2 ∧ Config.freeTags.1 ≠ 0x99 ∧ Config.freeTags.2 ≠ 0x99 then
    Config.freeTags
  else (0x00, 0x01)

/-- The parameters of the block that `State.reset` describes: any legal choice, and nothing more is known of them. -/
def Config.params : Params where
  tagA := Config.tags.1
  tagB := Config.tags.2
  inExtra := Config.freeInExtra % (2 ^ 32 - 4 - worstCaseStream + 1)
  outCap := Config.freeOutCap

end Sys2Proof
end

