-- ==== Sys2Proof/Syntax.lean ====
section
/-!
DEFINITION. The instruction set: one constructor per row of spec/opcode_table.json. An instruction is one element of the
compressed stream (spec/00_scope.md R2, spec/30_encoding.md R70): the header, a flags byte, a literal, a back-reference or
variant B's trailer. Its operands are the stored fields of R71 to R81, before any `+ 1` or base is added.
-/
namespace Sys2Proof

/-- The two stream variants (R2, R33). -/
inductive Variant where
  /-- Big-endian back-references, distance + 1. -/
  | A
  /-- Little-endian back-references, negated flags bytes, padding at the end. -/
  | B
  deriving DecidableEq, Repr

/-- The rows of the opcode table. -/
inductive Instr where
  /-- `HDR.A`: `TAG_A` and the 24-bit declared length (R71, R103, R104). -/
  | hdrA (declLen : BitVec 24)
  /-- `HDR.B`: `TAG_B` and the 24-bit declared length (R71, R103, R104). -/
  | hdrB (declLen : BitVec 24)
  /-- `FLAGS.A`: a flags byte of variant A, as stored (R72, R121). -/
  | flagsA (raw : Byte)
  /-- `FLAGS.B`: a flags byte of variant B, as stored (R72, R122). -/
  | flagsB (raw : Byte)
  /-- `LIT`: one raw output byte (R74, R124). -/
  | lit (b : Byte)
  /-- `REFA.S`: tier `T` (2..15) and stored distance `D` (R75). -/
  | refaS (t : BitVec 4) (d : BitVec 12)
  /-- `REFA.M`: stored length `L` and stored distance `D` (R76). -/
  | refaM (l : BitVec 8) (d : BitVec 12)
  /-- `REFA.L`: stored length `L` and stored distance `D` (R77). -/
  | refaL (l : BitVec 16) (d : BitVec 12)
  /-- `REFB.S`: tier `T` (2..15) and stored distance `D` (R78). -/
  | refbS (t : BitVec 4) (d : BitVec 12)
  /-- `REFB.M`: stored length `L` and stored distance `D` (R79). -/
  | refbM (l : BitVec 8) (d : BitVec 12)
  /-- `REFB.L`: stored length `L` and stored distance `D` (R80). -/
  | refbL (l : BitVec 16) (d : BitVec 12)
  /-- `PADB2`: the first padding byte `y` (not 0x80) and the skipped byte `x` (R81). -/
  | padb2 (y x : Byte)
  /-- `PADB3`: the sentinel 0x80 and the two skipped bytes (R81). -/
  | padb3 (x1 x2 : Byte)
  deriving DecidableEq, Repr

end Sys2Proof
end

