-- ==== Sys2Proof/Machine/State.lean ====
section
/-!
DEFINITION. The machine's state as plain data (spec/10_state.md), what it is right after reset (R41), and the reasons a
step can stop. The register views of this state (STATUS, CTRL, CAP_IN, CAP_OUT, `done`) are computed, in
Machine/Flags.lean and Machine/HostPort.lean: each piece of storage has one home.
-/
namespace Sys2Proof.Machine

/-- The phases of the block (R32). -/
inductive Phase where
  /-- No decode since reset. -/
  | idle
  /-- The header is checked next (R102 to R106). -/
  | hdr
  /-- One main-loop iteration is next (R120 to R126). -/
  | top
  /-- One byte of a back-reference is copied next (R183). -/
  | copy
  /-- The post-loop and completion step is next (R201 to R206). -/
  | post
  /-- The decode finished. -/
  | done
  /-- A fatal error ended the decode (R227). -/
  | error
  deriving DecidableEq, Repr

/-- The codes of `STATUS.ERR` that are ever produced (R25, R220). -/
inductive ErrCode where
  /-- 0 NONE. -/
  | noError
  /-- 1 FORMAT_SIZE (R102). -/
  | formatSize
  /-- 2 FORMAT_TAG (R103). -/
  | formatTag
  /-- 3 ALLOC (R105). -/
  | alloc
  /-- 4 BAD_DISTANCE (R180). -/
  | badDistance
  deriving DecidableEq, Repr

/-- The stored fields of `STATUS` (R25). `STATE` is a view of the phase (R32) and the reserved bits are 0. -/
structure Status where
  /-- Bits 7:4, `ERR`. -/
  err : ErrCode
  /-- Bit 8, `WARN_OVERRUN`. -/
  warnOverrun : Bool
  /-- Bit 9, `WARN_TRUNC`. -/
  warnTrunc : Bool
  /-- Bit 10, `WARN_TRAILING`. -/
  warnTrailing : Bool
  /-- Bit 12, `VARIANT`: false for variant A, true for variant B. -/
  variantB : Bool
  /-- Bit 13, `VARIANT_VALID`. -/
  variantValid : Bool
  deriving DecidableEq, Repr

/-- Every field of `STATUS` at 0 (R25, R101). -/
def Status.clear : Status := ⟨.noError, false, false, false, false, false⟩

/-- A memory: the bytes written so far, at strictly rising addresses. An address that is not listed holds no value of the
list's; what the machine reads there is `inByte` or `outByte` of Machine/Ops.lean. -/
abbrev Memory := List Host.Cell

/-- The width of a host register access (R58). -/
inductive AccessWidth where
  | byte
  | half
  | word
  deriving DecidableEq, Repr

/-- The host's moves: the rows of R262, the refused ones included. -/
inductive HostMove where
  /-- Write `IN_MEM[a]`. -/
  | writeIn (a : Nat) (b : Byte)
  /-- Read `IN_MEM[a]`. -/
  | readIn (a : Nat)
  /-- Write `OUT_MEM[a]`. -/
  | writeOut (a : Nat) (b : Byte)
  /-- Read `OUT_MEM[a]`. -/
  | readOut (a : Nat)
  /-- Read the register window at a byte offset. -/
  | readReg (offset : Nat) (width : AccessWidth)
  /-- Write the register window at a byte offset. -/
  | writeReg (offset : Nat) (width : AccessWidth) (value : Word)
  /-- Assert the reset input (R250). -/
  | reset
  deriving DecidableEq, Repr

/-- Whose move is next where the two agents interleave (R20, R259). -/
inductive Turn where
  /-- The block takes its step. -/
  | block
  /-- The host makes a move. -/
  | host (m : HostMove)
  deriving DecidableEq, Repr

/-- The state of one block and of its host's side. -/
structure State where
  /-- The parameters the block was built with (R8 to R10); `CAP_IN` and `CAP_OUT` show two of them (R30). -/
  params : Params
  /-- `phase` (R32); `STATUS.STATE` and `done` are views of it. -/
  phase : Phase
  /-- The other fields of `STATUS` (R25). -/
  status : Status
  /-- `IN_LEN` (R26). -/
  inLen : BitVec 32
  /-- `DECL_LEN[23:0]` (R27). -/
  declLen : BitVec 24
  /-- `OUT_LEN[23:0]` (R28). -/
  outLen : BitVec 24
  /-- `IN_CONSUMED` (R29). -/
  inConsumed : BitVec 32
  /-- `variant` (R33). -/
  variant : Variant
  /-- `in_cur`, the input cursor, which plays the part of a program counter (R34). -/
  inCur : BitVec 32
  /-- `out_cur`, the output cursor (R35). -/
  outCur : BitVec 24
  /-- `flags`, the effective flags byte (R36); from START to the first flags fetch, notes/assumptions/23.md. -/
  flags : BitVec 8
  /-- `mask`, the one-hot selector of the current flag bit, 0 when exhausted (R37). -/
  mask : BitVec 8
  /-- `length` of the back-reference being run (R38). -/
  length : BitVec 17
  /-- `dist` of the back-reference being run (R38). -/
  dist : BitVec 13
  /-- `count`, the bytes still to copy (R39). -/
  count : BitVec 17
  /-- `IN_MEM` (R21): the bytes written since the last reset. -/
  inMem : Memory
  /-- `OUT_MEM` (R22): the bytes written since the last reset. -/
  outMem : Memory
  /-- THE MODEL'S OWN: how many resets there have been; it names the free contents of unwritten memory (R252; DESIGN CHOICE,
  notes/assumptions/2.md, notes/assumptions/4.md). -/
  memEpoch : Nat
  /-- THE MODEL'S OWN: how many draws R254 (c) has taken; it names the next one (DESIGN CHOICE, notes/assumptions/7.md). -/
  draws : Nat
  /-- THE MODEL'S OWN: whose turns come next, oldest first; once it is empty the block steps alone (R259; DESIGN CHOICE,
  notes/assumptions/8.md). -/
  agenda : List Turn
  /-- THE MODEL'S OWN, on the host's side: the value the host's last read returned, zero-extended (DESIGN
  CHOICE, notes/assumptions/9.md). -/
  hostData : Word
  deriving DecidableEq, Repr

/-- The state right after reset (R41, R250). The registers from `variant` to `count` are unspecified there and the model
names zero for them (DESIGN CHOICE, notes/assumptions/3.md); both memories list nothing (R252). -/
def State.reset : State where
  params := Config.params
  phase := .idle
  status := Status.clear
  inLen := 0
  declLen := 0
  outLen := 0
  inConsumed := 0
  variant := .A
  inCur := 0
  outCur := 0
  flags := 0
  mask := 0
  length := 0
  dist := 0
  count := 0
  inMem := []
  outMem := []
  memEpoch := 0
  draws := 0
  agenda := []
  hostData := 0

/-- Why the machine stops with a fault. No state that meets `State.Inv` raises one on a block step
(notes/assumptions/12.md). -/
inductive Fault where
  /-- An access to `IN_MEM` at or past `MAX_IN_LEN`, an address R53 says does not exist. Raised by a block read or a host
  access. SAFE: the hardware has no byte there, and nothing is claimed of such an access. -/
  | noSuchInAddress
  /-- An access to `OUT_MEM` at or past `OUT_CAP`, or before address 0, which R53 says does not exist. Raised by a block
  read or write or a host access. SAFE, as `noSuchInAddress`. -/
  | noSuchOutAddress
  deriving DecidableEq, Repr

/-- Why a step has no meaning. All but the first are host moves that R58, R254 and R262 say the host does not have. -/
inductive Refusal where
  /-- Raised by an arm of `exec` with no meaning yet: none is left. SAFE. -/
  | notModelled (mnemonic : String)
  /-- A register access narrower than 32 bits (R58). Raised by a host move. SAFE: the host has no such move, and H-A3 of
  spec/93_implementation_defined.md says what that leaves out. -/
  | narrowAccess
  /-- A register access at an offset that is not a multiple of 4 (R58). Raised by a host move. SAFE, as `narrowAccess`. -/
  | misalignedAccess
  /-- A register access outside the 64-byte window (R53). Raised by a host move. SAFE. -/
  | outsideWindow
  /-- A host write to `IN_MEM` or `OUT_MEM` while BUSY (R254 (a), (b)). Raised by a host move. SAFE: H-A1 and H-A2 of
  spec/93_implementation_defined.md say what that leaves out. -/
  | memoryWriteWhileBusy
  deriving DecidableEq, Repr

/-- What a step answers. -/
abbrev Out := Host.Outcome State Fault Refusal

end Sys2Proof.Machine
end

