-- ==== Sys2Proof/Machine/Flags.lean ====
section
/-!
DEFINITION. The `STATUS` word and the `done` output as views of the state (spec/10_state.md R25, R32, R40), and the
warning conditions (spec/45_completion.md R203, R204).
-/
namespace Sys2Proof.Machine

/-- BUSY: a decode is running (R32). -/
def Phase.busy : Phase → Bool
  | .hdr => true
  | .top => true
  | .copy => true
  | .post => true
  | .idle => false
  | .done => false
  | .error => false

/-- The decode has ended: DONE or ERROR (R40, R260). -/
def Phase.finished : Phase → Bool
  | .done => true
  | .error => true
  | .idle => false
  | .hdr => false
  | .top => false
  | .copy => false
  | .post => false

/-- `STATUS.STATE`, bits 1:0 (R25, R32). -/
def Phase.code : Phase → BitVec 2
  | .idle => 0
  | .hdr => 1
  | .top => 1
  | .copy => 1
  | .post => 1
  | .done => 2
  | .error => 3

/-- `STATUS.ERR`, bits 7:4 (R25, R220). -/
def ErrCode.code : ErrCode → BitVec 4
  | .noError => 0
  | .formatSize => 1
  | .formatTag => 2
  | .alloc => 3
  | .badDistance => 4

/-- `STATUS` as the host reads it, the reserved bits 0 (R25). -/
def statusWord (p : Phase) (t : Status) : Word :=
  0#18 ++ BitVec.ofBool t.variantValid ++ BitVec.ofBool t.variantB ++ 0#1 ++ BitVec.ofBool t.warnTrailing ++
    BitVec.ofBool t.warnTrunc ++ BitVec.ofBool t.warnOverrun ++ t.err.code ++ 0#2 ++ p.code

/-- The output signal `done` (R40, R230): a level, 1 exactly in DONE and ERROR. -/
def doneSignal (s : State) : Bool := s.phase.finished

/-- `STATUS.VARIANT` of a variant (R103). -/
def variantBit : Variant → Bool
  | .A => false
  | .B => true

/-- R203: the loop ended short of the declared length. -/
def truncated (s : State) : Bool := decide (s.outCur.toNat < s.declLen.toNat)

/-- R204: the output is complete and the input cursor is not at the input's end. -/
def trailing (s : State) : Bool := decide (s.outCur = s.declLen) && decide (s.inCur ≠ s.inLen)

/-- The warnings that POST sets, each sticky (R25, R203, R204, R224). -/
def completionWarnings (s : State) : Status :=
  { s.status with
    warnTrunc := s.status.warnTrunc || truncated s
    warnTrailing := s.status.warnTrailing || trailing s }

end Sys2Proof.Machine
end

