-- ==== Sys2Proof/WellFormed.lean ====
section
/-!
DEFINITION. Which terms of `Instr` are instructions: the operand ranges of spec/30_encoding.md R75, R78 and R81. The field
widths of `Instr` say the rest.
-/
namespace Sys2Proof

/-- The operand checks of an instruction. -/
def Instr.wellFormed : Instr → Bool
  | .hdrA _ => true
  | .hdrB _ => true
  | .flagsA _ => true
  | .flagsB _ => true
  | .lit _ => true
  | .refaS t _ => decide (2 ≤ t.toNat)
  | .refaM _ _ => true
  | .refaL _ _ => true
  | .refbS t _ => decide (2 ≤ t.toNat)
  | .refbM _ _ => true
  | .refbL _ _ => true
  | .padb2 y _ => decide (y ≠ 0x80)
  | .padb3 _ _ => true

end Sys2Proof
end

