-- ==== Sys2Proof/Decode.lean ====
section
/-!
DEFINITION. From stream bytes to an instruction and back (spec/30_encoding.md R70 to R86), and the host's reading of an
opcode-table word. The grammar is context-dependent (R70, R85): the decoder state says which rows can apply, and then the
bytes say which of them does. `b0` is the byte at the lowest address throughout.
-/
namespace Sys2Proof

/-! ## Nibbles -/

/-- Bits 7:4 of a byte. -/
def hiNibble (b : Byte) : BitVec 4 := b.extractLsb' 4 4

/-- Bits 3:0 of a byte. -/
def loNibble (b : Byte) : BitVec 4 := b.extractLsb' 0 4

/-! ## One row group at a time -/

/-- The header's declared length: bytes 1..3, little-endian (R54, R71, R104). -/
def headerLength (b1 b2 b3 : Byte) : BitVec 24 := b3 ++ b2 ++ b1

/-- HDR.A or HDR.B by the tag, all 8 bits compared, or neither (R71, R103). -/
def decodeHeader (p : Params) (b0 b1 b2 b3 : Byte) : Option Instr :=
  if b0 = p.tagA then some (.hdrA (headerLength b1 b2 b3))
  else if b0 = p.tagB then some (.hdrB (headerLength b1 b2 b3))
  else none

/-- FLAGS.A or FLAGS.B: every byte is one (R72, R83). -/
def decodeFlags : Variant → Byte → Instr
  | .A, b => .flagsA b
  | .B, b => .flagsB b

/-- The selector nibble of a back-reference's first byte (R73). -/
def tierOf : Variant → Byte → BitVec 4
  | .A, b0 => hiNibble b0
  | .B, b0 => loNibble b0

/-- How many extension bytes follow the two bytes of a back-reference's first word (R73). -/
def extensionBytes (v : Variant) (b0 : Byte) : Nat :=
  if tierOf v b0 = 0 then 1 else if tierOf v b0 = 1 then 2 else 0

/-- REFA.S, REFA.M or REFA.L (R75, R76, R77); bytes past the form's own are not looked at. -/
def decodeRefA (b0 b1 b2 b3 : Byte) : Instr :=
  if hiNibble b0 = 0 then .refaM (loNibble b0 ++ hiNibble b1) (loNibble b1 ++ b2)
  else if hiNibble b0 = 1 then .refaL (loNibble b0 ++ b1 ++ hiNibble b2) (loNibble b2 ++ b3)
  else .refaS (hiNibble b0) (loNibble b0 ++ b1)

/-- REFB.S, REFB.M or REFB.L (R78, R79, R80); bytes past the form's own are not looked at. -/
def decodeRefB (b0 b1 b2 b3 : Byte) : Instr :=
  if loNibble b0 = 0 then .refbM b2 (b1 ++ hiNibble b0)
  else if loNibble b0 = 1 then .refbL (b3 ++ b2) (b1 ++ hiNibble b0)
  else .refbS (loNibble b0) (b1 ++ hiNibble b0)

/-- The back-reference of a variant (R126). -/
def decodeRef : Variant → Byte → Byte → Byte → Byte → Instr
  | .A => decodeRefA
  | .B => decodeRefB

/-- The token that the flag bit selects: 0 a literal, 1 a back-reference (R72, R123). -/
def decodeToken (v : Variant) (bit : Bool) (b0 b1 b2 b3 : Byte) : Instr :=
  if bit then decodeRef v b0 b1 b2 b3 else .lit b0

/-- PADB3 for the sentinel 0x80, else PADB2 (R81, R201). -/
def decodeTrailer (y x1 x2 : Byte) : Instr :=
  if y = 0x80 then .padb3 x1 x2 else .padb2 y x1

/-! ## The decoder on a list of bytes -/

/-- The decoder states of R85 that say which rows can apply. -/
inductive Context where
  /-- Phase HDR. -/
  | header
  /-- Phase TOP with `mask = 0`. -/
  | flags (v : Variant)
  /-- Phase TOP, the current flag bit being `bit`. -/
  | token (v : Variant) (bit : Bool)
  /-- Phase POST of variant B. -/
  | trailer
  deriving DecidableEq, Repr

/-- Why bytes are no instruction. -/
inductive DecodeError where
  /-- The header's first byte is neither tag (R83): the block reports FORMAT_TAG. -/
  | unknownTag (b0 : Byte)
  /-- The instruction goes on past the bytes given: in the block, the truncation condition (R50). -/
  | tooShort
  deriving DecidableEq, Repr

/-- The instruction at the head of the bytes, and the bytes after it. -/
def decode (p : Params) : Context → List Byte → Except DecodeError (Instr × List Byte)
  | .header, b0 :: b1 :: b2 :: b3 :: r =>
    match decodeHeader p b0 b1 b2 b3 with
    | some i => .ok (i, r)
    | none => .error (.unknownTag b0)
  | .flags v, b :: r => .ok (decodeFlags v b, r)
  | .token _ false, b :: r => .ok (.lit b, r)
  | .token v true, b0 :: b1 :: r =>
    match extensionBytes v b0, r with
    | 0, r => .ok (decodeRef v b0 b1 0 0, r)
    | 1, b2 :: r => .ok (decodeRef v b0 b1 b2 0, r)
    | 2, b2 :: b3 :: r => .ok (decodeRef v b0 b1 b2 b3, r)
    | _, _ => .error .tooShort
  | .trailer, y :: x1 :: r =>
    if y = 0x80 then
      match r with
      | x2 :: r => .ok (decodeTrailer y x1 x2, r)
      | [] => .error .tooShort
    else .ok (decodeTrailer y x1 0, r)
  | _, _ => .error .tooShort

/-! ## The encoder -/

/-- The bytes of an instruction, written from the encoding tables R71 to R81. -/
def encode (p : Params) : Instr → List Byte
  | .hdrA n => [p.tagA, n.extractLsb' 0 8, n.extractLsb' 8 8, n.extractLsb' 16 8]
  | .hdrB n => [p.tagB, n.extractLsb' 0 8, n.extractLsb' 8 8, n.extractLsb' 16 8]
  | .flagsA raw => [raw]
  | .flagsB raw => [raw]
  | .lit b => [b]
  | .refaS t d => [t ++ d.extractLsb' 8 4, d.extractLsb' 0 8]
  | .refaM l d => [0#4 ++ l.extractLsb' 4 4, l.extractLsb' 0 4 ++ d.extractLsb' 8 4, d.extractLsb' 0 8]
  | .refaL l d =>
    [1#4 ++ l.extractLsb' 12 4, l.extractLsb' 4 8, l.extractLsb' 0 4 ++ d.extractLsb' 8 4, d.extractLsb' 0 8]
  | .refbS t d => [d.extractLsb' 0 4 ++ t, d.extractLsb' 4 8]
  | .refbM l d => [d.extractLsb' 0 4 ++ 0#4, d.extractLsb' 4 8, l]
  | .refbL l d => [d.extractLsb' 0 4 ++ 1#4, d.extractLsb' 4 8, l.extractLsb' 0 8, l.extractLsb' 8 8]
  | .padb2 y x => [y, x]
  | .padb3 x1 x2 => [0x80, x1, x2]

/-- The contexts in which an instruction's row applies (the opcode table's `context`, R85). A literal's row applies in
either variant. -/
def Instr.appliesIn : Instr → Context → Bool
  | .hdrA _, c => c == .header
  | .hdrB _, c => c == .header
  | .flagsA _, c => c == .flags .A
  | .flagsB _, c => c == .flags .B
  | .lit _, c => c == .token .A false || c == .token .B false
  | .refaS _ _, c => c == .token .A true
  | .refaM _ _, c => c == .token .A true
  | .refaL _ _, c => c == .token .A true
  | .refbS _ _, c => c == .token .B true
  | .refbM _ _, c => c == .token .B true
  | .refbL _ _, c => c == .token .B true
  | .padb2 _ _, c => c == .trailer
  | .padb3 _ _, c => c == .trailer

/-- How many bytes an instruction has (the opcode table's `bytes`, R73). -/
def Instr.byteCount : Instr → Nat
  | .hdrA _ => 4
  | .hdrB _ => 4
  | .flagsA _ => 1
  | .flagsB _ => 1
  | .lit _ => 1
  | .refaS _ _ => 2
  | .refaM _ _ => 3
  | .refaL _ _ => 4
  | .refbS _ _ => 2
  | .refbM _ _ => 3
  | .refbL _ _ => 4
  | .padb2 _ _ => 2
  | .padb3 _ _ => 3

/-! ## Words of the opcode table -/

/-- The `n` bytes of a stream word `W`, `b0` first: the table numbers `W` with `b0` most significant (R85). -/
def wordBytes (n w : Nat) : List Byte :=
  (List.range n).map fun k => BitVec.ofNat 8 (w >>> (8 * (n - 1 - k)))

/-- The contexts in which a table word of `n` bytes is tried, in order. The table decides a row by its context first
(R85) and a bare word carries none, so this order is the model's (notes/assumptions/6.md). -/
def tableContexts : Nat → List Context
  | 1 => [.flags .A]
  | 2 => [.token .A true, .token .B true, .trailer]
  | 3 => [.trailer, .token .A true, .token .B true]
  | 4 => [.token .A true, .token .B true, .header]
  | _ => []

/-- The instruction that exactly these bytes are in the context, if any. -/
def decodeExactly (p : Params) (c : Context) (bytes : List Byte) : Option Instr :=
  match decode p c bytes with
  | .ok (i, []) => some i
  | _ => none

/-- The first context of the list in which the bytes are exactly one instruction. -/
def firstContext (p : Params) (bytes : List Byte) : List Context → Option Context
  | [] => none
  | c :: cs =>
    match decodeExactly p c bytes with
    | some _ => some c
    | none => firstContext p bytes cs

/-- The context in which a table word is read. -/
def tableContext (nbits w : Nat) : Option Context :=
  firstContext Config.params (wordBytes (nbits / 8) w) (tableContexts (nbits / 8))

/-- The instruction of a table word (host's question: does the decoder give the row's instruction). -/
def decodeTableWord (nbits w : Nat) : Option Instr :=
  match tableContext nbits w with
  | some c => decodeExactly Config.params c (wordBytes (nbits / 8) w)
  | none => none

end Sys2Proof
end

