-- ==== Sys2Proof/Machine/Operands.lean ====
section
/-!
DEFINITION. What the operand fields of an instruction stand for: the effective flags byte (spec/00_scope.md R13,
spec/30_encoding.md R72) and the length and distance of each back-reference form (R82). The values are exact natural
numbers (R12); a register's width is applied where it is written.
-/
namespace Sys2Proof.Machine

/-- `neg8(x) = (256 - x) mod 256` (R13). -/
def neg8 (x : Byte) : Byte := BitVec.ofNat 8 ((256 - x.toNat) % 256)

/-- The effective flags byte of a stored one (R72). -/
def effectiveFlags : Variant → Byte → Byte
  | .A, raw => raw
  | .B, raw => neg8 raw

/-- The bit mask that a flags fetch sets: the first token's bit (R37, R121). -/
def firstMask : BitVec 8 := 0x80

/-- Variant A's distance (R82): the stored field plus 1. -/
def distA (d : BitVec 12) : Nat := d.toNat + 1

/-- Variant B's distance (R82): the stored field itself. -/
def distB (d : BitVec 12) : Nat := d.toNat

/-- `base` of each tier (R141 to R143, R161 to R163): what is added to the stored length. -/
def baseS : Nat := 0

/-- `base` of the tier 0 forms. -/
def baseM : Nat := 16

/-- `base` of the tier 1 forms. -/
def baseL : Nat := 272

/-- REFA.S (R141). -/
def lengthAS (t : BitVec 4) : Nat := t.toNat + baseS + 1

/-- REFA.M (R142). -/
def lengthAM (l : BitVec 8) : Nat := l.toNat + baseM + 1

/-- REFA.L (R143). -/
def lengthAL (l : BitVec 16) : Nat := l.toNat + baseL + 1

/-- REFB.S (R161). -/
def lengthBS (t : BitVec 4) : Nat := t.toNat + baseS

/-- REFB.M (R162). -/
def lengthBM (l : BitVec 8) : Nat := l.toNat + baseM

/-- REFB.L (R163). -/
def lengthBL (l : BitVec 16) : Nat := l.toNat + baseL

/-- `(length, dist)` of a back-reference, as its parser delivers it (R82); `none` for any other instruction. -/
def refOperands : Instr → Option (Nat × Nat)
  | .refaS t d => some (lengthAS t, distA d)
  | .refaM l d => some (lengthAM l, distA d)
  | .refaL l d => some (lengthAL l, distA d)
  | .refbS t d => some (lengthBS t, distB d)
  | .refbM l d => some (lengthBM l, distB d)
  | .refbL l d => some (lengthBL l, distB d)
  | .hdrA _ => none
  | .hdrB _ => none
  | .flagsA _ => none
  | .flagsB _ => none
  | .lit _ => none
  | .padb2 _ _ => none
  | .padb3 _ _ => none

end Sys2Proof.Machine
end

