-- ==== Sys2Proof/Machine/Ops.lean ====
section
/-!
DEFINITION. The named operations every meaning is made of: the two memories (spec/20_memory.md), the stream read with its
end-of-input guard (R50), the output write (R51), raising a fatal error (spec/60_exceptions.md R227) and START, the only
way out of an ended decode (spec/40_header.md R100, R101), reset (spec/70_reset_and_hazards.md R250), the copy engine
(spec/44_copy_engine.md) and completion (spec/45_completion.md).
-/
namespace Sys2Proof.Machine

/-! ## Memory -/

/-- The canonical form: addresses strictly rising. An unlisted address has no value, so no entry can equal it. -/
abbrev Memory.wf (m : Memory) : Prop := m.Pairwise fun x y => x.1 < y.1

/-- The byte written last at an address; `none` where nothing has been written, which is what every unlisted address
reads as. -/
def Memory.lookup : Memory → Nat → Option Byte
  | [], _ => none
  | (k, v) :: m, a => if k = a then some v else Memory.lookup m a

/-- Write one byte, keeping the canonical form. -/
def Memory.write : Memory → Nat → Byte → Memory
  | [], a, v => [(a, v)]
  | (k, w) :: m, a, v =>
    if a < k then (a, v) :: (k, w) :: m
    else if a = k then (a, v) :: m
    else (k, w) :: Memory.write m a v

/-- The byte at an address of `IN_MEM`: the last one written, else any value (R21, R252). -/
def inByte (s : State) (a : Nat) : Byte := (s.inMem.lookup a).getD (Config.inMemFree s.memEpoch a)

/-- The byte at an address of `OUT_MEM`: the last one written, else any value (R22, R252). -/
def outByte (s : State) (a : Nat) : Byte := (s.outMem.lookup a).getD (Config.outMemFree s.memEpoch a)

/-- The first `n` addresses of `IN_MEM` exist: `n <= MAX_IN_LEN` (R21, R53). The first test is R9's lower bound, which every
`MAX_IN_LEN` meets; with it a closed case evaluates although `MAX_IN_LEN` is open. -/
def inExists (p : Params) (n : Nat) : Bool := decide (n ≤ worstCaseStream) || decide (n ≤ p.maxInLen)

/-- The first `n` addresses of `OUT_MEM` exist: `n <= OUT_CAP` (R22, R53). -/
def outExists (p : Params) (n : Nat) : Bool := decide (n ≤ p.outCap.toNat)

/-! ## Cursors and phases -/

/-- `goto POST` (R14, R200). -/
def gotoPost (s : State) : State := { s with phase := .post }

/-- `in_cur <- in_cur + n` (R34). -/
def advanceIn (n : Nat) (s : State) : State := { s with inCur := s.inCur + BitVec.ofNat 32 n }

/-- The main loop's end test (R120). -/
def loopEnds (s : State) : Bool :=
  decide (s.declLen.toNat ≤ s.outCur.toNat) || decide (s.inLen.toNat ≤ s.inCur.toNat)

/-- The current flag bit (R123). -/
def flagBit (s : State) : Bool := decide (s.flags &&& s.mask ≠ 0)

/-- `mask <- mask >> 1` (R123). -/
def shiftMask (s : State) : State := { s with mask := s.mask >>> 1 }

/-! ## The stream -/

/-- One read step of `n` bytes at `in_cur` (R50, R60, R140, R144): past the end of the input it is not made and the loop
ends with nothing of the step consumed; otherwise the bytes are consumed and the meaning goes on. The bytes themselves are
the instruction's operands, which the decoder has taken from the same addresses (Machine/Fetch.lean). -/
def readStream (n : Nat) (s : State) (go : State → Out) : Out :=
  if s.inLen.toNat < s.inCur.toNat + n then .next (gotoPost s)
  else if inExists s.params (s.inCur.toNat + n) then go (advanceIn n s)
  else .fault .noSuchInAddress

/-- A flags fetch: `flags` and `mask` (R121, R122). -/
def loadFlags (f : Byte) (s : State) : State := { s with flags := f, mask := firstMask }

/-! ## The output -/

/-- Append one byte: `OUT_MEM[out_cur] <- b; out_cur <- out_cur + 1` (R51, R124, R183). -/
def putByte (b : Byte) (s : State) : State :=
  { s with outMem := s.outMem.write s.outCur.toNat b, outCur := s.outCur + 1 }

/-- `MemWrite(OUT, out_cur, 1, b)` and the advance of `out_cur`; an address at or past `OUT_CAP` does not exist (R53). -/
def writeOut (b : Byte) (s : State) (go : State → Out) : Out :=
  if outExists s.params (s.outCur.toNat + 1) then go (putByte b s) else .fault .noSuchOutAddress

/-! ## Fatal errors, and the way out of them -/

/-- `raise Fault(code)` (R227): the decode ends in ERROR in the same step. -/
def raiseFault (c : ErrCode) (s : State) : State :=
  { s with
    status := { s.status with err := c }
    phase := .error
    outLen := if c = .badDistance then s.outCur else 0
    inConsumed := if c = .badDistance then s.inCur else 0 }

/-- START initialization (R101): every result of the previous decode is cleared and HDR is next. R101 writes no datapath
register; that `flags`, which R36 leaves unspecified at the start of a decode, keeps its value is the model's (DESIGN CHOICE,
notes/assumptions/23.md). -/
def start (s : State) : State :=
  { s with status := Status.clear, declLen := 0, outLen := 0, inConsumed := 0, phase := .hdr }

/-- START acceptance (R100): while BUSY it is ignored and lost. -/
def requestStart (s : State) : State := if s.phase.busy then s else start s

/-- The reset input (R250, R252): every register as `State.reset` has it, the contents of both memories any value from
here on. The parameters are built in, and the host's side of the state is no part of the block (notes/assumptions/4.md). -/
def assertReset (s : State) : State :=
  { State.reset with
    params := s.params, memEpoch := s.memEpoch + 1, draws := s.draws, agenda := s.agenda, hostData := s.hostData }

/-! ## The header -/

/-- R102's condition: the stream length is outside `[4, MAX_IN_LEN]`. -/
def sizeBad (s : State) : Bool := decide (s.inLen.toNat < 4) || !inExists s.params s.inLen.toNat

/-- The tag is recognized and the declared length loaded (R103, R104). -/
def acceptHeader (v : Variant) (n : BitVec 24) (s : State) : State :=
  { s with
    variant := v
    status := { s.status with variantB := variantBit v, variantValid := true }
    declLen := n }

/-- Decode initialization (R106). `flags` keeps its value until the first flags fetch, as at START (DESIGN CHOICE,
notes/assumptions/23.md). -/
def initDecode (s : State) : State := { s with inCur := 4, outCur := 0, mask := 0, phase := .top }

/-- The checks of the HDR step in order, and what follows (R102 to R106, R225). -/
def runHeader (v : Variant) (n : BitVec 24) (s : State) : Out :=
  if sizeBad s then .next (raiseFault .formatSize s)
  else if s.params.outCap.toNat < n.toNat then .next (raiseFault .alloc (acceptHeader v n s))
  else .next (initDecode (acceptHeader v n s))

/-! ## The copy engine -/

/-- The output space left, `DECL_LEN - out_cur` (R181). -/
def spaceLeft (s : State) : Nat := s.declLen.toNat - s.outCur.toNat

/-- The parser delivers `(length, dist)` (R38, R126). -/
def deliver (len dist : Nat) (s : State) : State :=
  { s with length := BitVec.ofNat 17 len, dist := BitVec.ofNat 13 dist }

/-- The overrun clamp (R181): `length` becomes the space left and the warning is set. -/
def clampLength (s : State) : State :=
  { s with length := BitVec.ofNat 17 (spaceLeft s), status := { s.status with warnOverrun := true } }

/-- Copy setup (R182). -/
def beginCopy (s : State) : State := { s with count := s.length, phase := .copy }

/-- What becomes of a parsed back-reference in its TOP step (R180 to R182, R226). -/
def runRef (len dist : Nat) (s : State) : Out :=
  if dist = 0 ∨ s.outCur.toNat < dist then .next (raiseFault .badDistance (deliver len dist s))
  else if spaceLeft s < len then .next (beginCopy (clampLength (deliver len dist s)))
  else .next (beginCopy (deliver len dist s))

/-- The end of a copy step: `count <- count - 1`, and TOP is next when nothing is left (R183). -/
def countDown (s : State) : State :=
  { s with count := s.count - 1, phase := if s.count - 1 = 0 then .top else .copy }

/-- One step of phase COPY (R183). -/
def copyStep (s : State) : Out :=
  if s.outCur.toNat < s.dist.toNat then .fault .noSuchOutAddress
  else if outExists s.params (s.outCur.toNat - s.dist.toNat + 1) then
    writeOut (outByte s (s.outCur.toNat - s.dist.toNat)) s fun t => .next (countDown t)
  else .fault .noSuchOutAddress

/-! ## Completion -/

/-- R203 to R206: the warnings, the final results, DONE. -/
def finish (s : State) : State :=
  { s with status := completionWarnings s, outLen := s.outCur, inConsumed := s.inCur, phase := .done }

/-- Variant B's padding skip of `n` bytes and then completion (R201 to R206). The first padding byte is read only where
there is one, and it is the only one read. -/
def skipPadding (n : Nat) (s : State) : Out :=
  if s.inLen.toNat ≤ s.inCur.toNat ∨ inExists s.params (s.inCur.toNat + 1) then .next (finish (advanceIn n s))
  else .fault .noSuchInAddress

end Sys2Proof.Machine
end

