-- ==== Sys2Proof/Machine/FlagsByte.lean ====
section
/-!
DEFINITION. The flags fetch, rows FLAGS.A and FLAGS.B (spec/41_dispatch.md R121, R122). The loop test before it (R120) and
the bit test after it (R123) belong to every iteration and stand in Machine/Block.lean.
-/
namespace Sys2Proof.Machine

/-- FLAGS.A (R121): the byte as stored. -/
def execFlagsA (raw : Byte) (s : State) : Out :=
  readStream 1 s fun t => .next (loadFlags (effectiveFlags .A raw) t)

/-- FLAGS.B (R122): the byte negated arithmetically. -/
def execFlagsB (raw : Byte) (s : State) : Out :=
  readStream 1 s fun t => .next (loadFlags (effectiveFlags .B raw) t)

end Sys2Proof.Machine
end

