-- ==== Sys2Proof/Machine/Header.lean ====
section
/-!
DEFINITION. The header rows HDR.A and HDR.B (spec/40_header.md R102 to R106). The tag has chosen the row; the row runs the
size check, the variant select, the declared length, the allocation check and the decode initialization, in that order.
-/
namespace Sys2Proof.Machine

/-- HDR.A (R103): variant A with declared length `n`. -/
def execHdrA (n : BitVec 24) (s : State) : Out := runHeader .A n s

/-- HDR.B (R103): variant B with declared length `n`. -/
def execHdrB (n : BitVec 24) (s : State) : Out := runHeader .B n s

end Sys2Proof.Machine
end

