-- ==== Sys2Proof/Machine/Literal.lean ====
section
/-!
DEFINITION. The literal, row LIT (spec/41_dispatch.md R124, R125).
-/
namespace Sys2Proof.Machine

/-- LIT (R124): one byte from the stream to the output; with no byte left the loop ends (R125). -/
def execLit (b : Byte) (s : State) : Out :=
  readStream 1 s fun t => writeOut b t fun u => .next { u with phase := .top }

end Sys2Proof.Machine
end

