-- ==== Sys2Proof/Machine/RefA.lean ====
section
/-!
DEFINITION. Variant A's back-references, rows REFA.S, REFA.M and REFA.L (spec/42_backref_a.md R140 to R144). The first
word is one read step and each extension byte is another; a step past the end of the input ends the loop and keeps the
bytes of the earlier steps consumed. The copy itself is phase COPY (Machine/Ops.lean `copyStep`).
-/
namespace Sys2Proof.Machine

/-- REFA.S (R141). -/
def execRefaS (t : BitVec 4) (d : BitVec 12) (s : State) : Out :=
  readStream 2 s fun s => runRef (lengthAS t) (distA d) s

/-- REFA.M (R142). -/
def execRefaM (l : BitVec 8) (d : BitVec 12) (s : State) : Out :=
  readStream 2 s fun s => readStream 1 s fun s => runRef (lengthAM l) (distA d) s

/-- REFA.L (R143). -/
def execRefaL (l : BitVec 16) (d : BitVec 12) (s : State) : Out :=
  readStream 2 s fun s => readStream 1 s fun s => readStream 1 s fun s => runRef (lengthAL l) (distA d) s

end Sys2Proof.Machine
end

