-- ==== Sys2Proof/Machine/RefB.lean ====
section
/-!
DEFINITION. Variant B's back-references, rows REFB.S, REFB.M and REFB.L (spec/43_backref_b.md R160 to R164). Read steps as
in variant A. `length` is built in its register (R163), so a REFB.L cut before its last byte leaves the low byte there.
-/
namespace Sys2Proof.Machine

/-- REFB.S (R161). -/
def execRefbS (t : BitVec 4) (d : BitVec 12) (s : State) : Out :=
  readStream 2 s fun s => runRef (lengthBS t) (distB d) s

/-- REFB.M (R162). -/
def execRefbM (l : BitVec 8) (d : BitVec 12) (s : State) : Out :=
  readStream 2 s fun s => readStream 1 s fun s => runRef (lengthBM l) (distB d) s

/-- `length <- b2`, the first half of a REFB.L length (R163; DEDUCED, notes/assumptions/11.md). -/
def loadLengthByte (b2 : Byte) (s : State) : State := { s with length := b2.setWidth 17 }

/-- REFB.L (R163). -/
def execRefbL (l : BitVec 16) (d : BitVec 12) (s : State) : Out :=
  readStream 2 s fun s => readStream 1 s fun s =>
    readStream 1 (loadLengthByte (l.extractLsb' 0 8) s) fun s => runRef (lengthBL l) (distB d) s

end Sys2Proof.Machine
end

