-- ==== Sys2Proof/Machine/Trailer.lean ====
section
/-!
DEFINITION. Variant B's trailer, rows PADB2 and PADB3 (spec/45_completion.md R201), each with the completion of the POST
step that runs it (R203 to R206). The skipped bytes' values do not matter (spec/30_encoding.md R81).
-/
namespace Sys2Proof.Machine

/-- PADB2 (R201): skip 2, also when no byte is left (D8). -/
def execPadb2 (_y _x : Byte) (s : State) : Out := skipPadding 2 s

/-- PADB3 (R201): skip 3. -/
def execPadb3 (_x1 _x2 : Byte) (s : State) : Out := skipPadding 3 s

end Sys2Proof.Machine
end

