-- ==== Sys2Proof/Machine/Dispatch.lean ====
section
/-!
DEFINITION. The meaning of every instruction, one arm a constructor.
-/
namespace Sys2Proof.Machine

def exec (i : Instr) (s : State) : Host.Outcome State Fault Refusal :=
  match i with
  | .hdrA n => Sys2Proof.Machine.execHdrA n s
  | .hdrB n => Sys2Proof.Machine.execHdrB n s
  | .flagsA raw => Sys2Proof.Machine.execFlagsA raw s
  | .flagsB raw => Sys2Proof.Machine.execFlagsB raw s
  | .lit b => Sys2Proof.Machine.execLit b s
  | .refaS t d => Sys2Proof.Machine.execRefaS t d s
  | .refaM l d => Sys2Proof.Machine.execRefaM l d s
  | .refaL l d => Sys2Proof.Machine.execRefaL l d s
  | .refbS t d => Sys2Proof.Machine.execRefbS t d s
  | .refbM l d => Sys2Proof.Machine.execRefbM l d s
  | .refbL l d => Sys2Proof.Machine.execRefbL l d s
  | .padb2 y x => Sys2Proof.Machine.execPadb2 y x s
  | .padb3 x1 x2 => Sys2Proof.Machine.execPadb3 x1 x2 s

end Sys2Proof.Machine
end

