-- ==== Sys2Proof/Machine/Fetch.lean ====
section
/-!
DEFINITION. Which bytes of the stream the decoder is given, and which instruction they are in the block's state
(spec/20_memory.md R50, spec/30_encoding.md R85). A fetch only looks: consuming the bytes, and stopping where they run
out, is the instruction's meaning (`readStream`). Also: how the host places one instruction where the next step fetches.
-/
namespace Sys2Proof.Machine

/-- Byte `k` of the stream from address `a` on. At or past `IN_LEN` nothing is read (R50) and the decoder sees 0x00 in its
place: no meaning uses an operand that stands on such a byte, because its read step is not made (DESIGN CHOICE, notes/assumptions/10.md). -/
def streamByte (s : State) (a k : Nat) : Byte :=
  if a + k < s.inLen.toNat then inByte s (a + k) else 0

/-- The instruction that the header bytes are, at addresses 0..3 whatever `in_cur` holds (R71, R103). -/
def fetchHeader (s : State) : Option Instr :=
  decodeHeader s.params (streamByte s 0 0) (streamByte s 0 1) (streamByte s 0 2) (streamByte s 0 3)

/-- The flags byte at `in_cur` (R121, R122). -/
def fetchFlags (s : State) : Instr := decodeFlags s.variant (streamByte s s.inCur.toNat 0)

/-- The token at `in_cur` for the flag bit `bit` (R123 to R126). -/
def fetchToken (bit : Bool) (s : State) : Instr :=
  decodeToken s.variant bit (streamByte s s.inCur.toNat 0) (streamByte s s.inCur.toNat 1)
    (streamByte s s.inCur.toNat 2) (streamByte s s.inCur.toNat 3)

/-- Variant B's trailer at `in_cur` (R201). The padding bytes after the first are not read (R201); their operands stand as
0x00, the assembler's default (R86), and no meaning uses them (DESIGN CHOICE, notes/assumptions/10.md). -/
def fetchTrailer (s : State) : Instr := decodeTrailer (streamByte s s.inCur.toNat 0) 0 0

/-- The bytes of the stream from address `a` on that the block may read, at most `n` of them (R50). -/
def streamBytes (s : State) (a : Nat) : Nat → List Byte
  | 0 => []
  | n + 1 => if a < s.inLen.toNat then inByte s a :: streamBytes s (a + 1) n else []

/-- The context of the next instruction (R85), where the state has one. -/
def nextContext (s : State) : Option Context :=
  match s.phase with
  | .hdr => some .header
  | .top => if loopEnds s then none else if s.mask = 0 then some (.flags s.variant) else some (.token s.variant (flagBit s))
  | .post => if s.variant = .B then some .trailer else none
  | .idle => none
  | .copy => none
  | .done => none
  | .error => none

/-- Where the next instruction's bytes begin: the header's at address 0, any other's at `in_cur` (R71, R34). -/
def nextAddress (s : State) : Nat := if s.phase = .hdr then 0 else s.inCur.toNat

/-! ## Placing one instruction -/

/-- Write bytes at rising addresses from `a` on. -/
def writeBytes (m : Memory) (a : Nat) : List Byte → Memory
  | [] => m
  | b :: bs => writeBytes (m.write a b) (a + 1) bs

/-- Room for output, which the loop test asks for before it lets a token be fetched (R120): kept where there is some. -/
def withRoom (s : State) : State :=
  if s.outCur.toNat < s.declLen.toNat then s else { s with outCur := 0, declLen := 1 }

/-- The decoder state in which the rows of a context apply (R85). -/
def inContext (s : State) : Context → State
  | .header => { s with phase := .hdr }
  | .flags v => withRoom { s with phase := .top, variant := v, mask := 0 }
  | .token v bit =>
    withRoom { s with phase := .top, variant := v, mask := firstMask, flags := if bit then firstMask else 0 }
  | .trailer => { s with phase := .post, variant := .B }

/-- The bytes stored where the next step fetches, as the last bytes of the stream. -/
def placeBytes (s : State) (bs : List Byte) : State :=
  { s with
    inMem := writeBytes s.inMem (nextAddress s) bs
    inLen := BitVec.ofNat 32 (nextAddress s + bs.length)
    agenda := [] }

/-- A table word placed so that the very next step runs it. A word that is no instruction is placed as a header, where the
block answers FORMAT_TAG. -/
def placeWord (s : State) (nbits w : Nat) : State :=
  placeBytes (inContext s ((tableContext nbits w).getD .header)) (wordBytes (nbits / 8) w)

end Sys2Proof.Machine
end

