-- ==== Sys2Proof/Machine/Block.lean ====
section
/-!
DEFINITION. The block's one step in each phase (spec/10_state.md R32, spec/92_eei_decisions.md D18): HDR, one main-loop
iteration in TOP, one byte in COPY, POST. Each fetches its instruction and runs `exec` of it.
-/
namespace Sys2Proof.Machine

/-- The HDR step (R102 to R106): the size check before any byte is read, the tag check, and then the header row. -/
def hdrStep (s : State) : Out :=
  if sizeBad s then .next (raiseFault .formatSize s)
  else
    match fetchHeader s with
    | some i => exec i s
    | none => .next (raiseFault .formatTag s)

/-- The bit test, the mask shift and the token they select (R123 to R126). The mask is shifted before the token is
decoded. -/
def tokenStep (s : State) : Out := exec (fetchToken (flagBit s) (shiftMask s)) (shiftMask s)

/-- The flags fetch of an iteration that finds the mask exhausted, and then its token, in the same step (R121, R122). -/
def flagsStep (s : State) : Out :=
  match exec (fetchFlags s) s with
  | .next t => tokenStep t
  | .fault e => .fault e
  | .refused e => .refused e

/-- One main-loop iteration (R120 to R126). -/
def topStep (s : State) : Out :=
  if loopEnds s then .next (gotoPost s) else if s.mask = 0 then flagsStep s else tokenStep s

/-- The POST step (R201 to R206): variant A completes at once (R202), variant B through its trailer. -/
def postStep (s : State) : Out :=
  match s.variant with
  | .A => .next (finish s)
  | .B => exec (fetchTrailer s) s

/-- The block's step. In IDLE, DONE and ERROR it takes none and holds every register until START or reset (R228, R236). -/
def blockStep (s : State) : Out :=
  match s.phase with
  | .idle => .next s
  | .hdr => hdrStep s
  | .top => topStep s
  | .copy => copyStep s
  | .post => postStep s
  | .done => .next s
  | .error => .next s

end Sys2Proof.Machine
end

