-- ==== Sys2Proof/Machine/HostPort.lean ====
section
/-!
DEFINITION. The host's side of the block: the register window (spec/10_state.md R23 to R31, spec/20_memory.md R53, R58,
R61) and the complete list of host moves (spec/70_reset_and_hazards.md R254, R262).
-/
namespace Sys2Proof.Machine

/-! ## The register window -/

/-- `CAP_IN` (R30). -/
def capIn (s : State) : Word := BitVec.ofNat 32 s.params.maxInLen

/-- `CAP_OUT` (R30): bits 31:24 read 0. -/
def capOut (s : State) : Word := s.params.outCap.setWidth 32

/-- What a register at an offset reads as (R23 to R31): `CTRL` and the reserved offsets read 0. -/
def regRead (s : State) (offset : Nat) : Word :=
  match offset with
  | 0x04 => statusWord s.phase s.status
  | 0x08 => s.inLen
  | 0x0C => s.declLen.setWidth 32
  | 0x10 => s.outLen.setWidth 32
  | 0x14 => s.inConsumed
  | 0x18 => capIn s
  | 0x1C => capOut s
  | _ => 0

/-- What a register write at an offset does (R23 to R31): START through bit 0 of `CTRL`, `IN_LEN` while not BUSY, and
nothing anywhere else. -/
def regWrite (s : State) (offset : Nat) (v : Word) : State :=
  match offset with
  | 0x00 => if v.getLsbD 0 then requestStart s else s
  | 0x08 => if s.phase.busy then s else { s with inLen := v }
  | _ => s

/-- The byte of the window at an address, register bit 0 being bit 0 of the byte at the register's offset (R58). -/
def windowByte (s : State) (a : Nat) : Byte := (regRead s (a - a % 4)).extractLsb' (8 * (a % 4)) 8

/-- The size of the register window in bytes (R23, R53). -/
def windowBytes : Nat := 64

/-- Only whole, aligned words of the window are accessed; the host has no other register move (R58, R262). -/
def regAccess (offset : Nat) (width : AccessWidth) (go : Out) : Out :=
  if width ≠ .word then .refused .narrowAccess
  else if offset % 4 ≠ 0 then .refused .misalignedAccess
  else if windowBytes ≤ offset then .refused .outsideWindow
  else go

/-! ## Memory accesses of the host -/

/-- An `IN_MEM` address of the host exists below `MAX_IN_LEN` (R53). -/
def inAccess (s : State) (a : Nat) (go : Out) : Out :=
  if inExists s.params (a + 1) then go else .fault .noSuchInAddress

/-- An `OUT_MEM` address of the host exists below `OUT_CAP` (R53). -/
def outAccess (s : State) (a : Nat) (go : Out) : Out :=
  if outExists s.params (a + 1) then go else .fault .noSuchOutAddress

/-- A host write to a memory waits for no decode: while BUSY the host has no such move (R254 (a), (b)). -/
def whenNotBusy (s : State) (go : Out) : Out :=
  if s.phase.busy then .refused .memoryWriteWhileBusy else go

/-- The value a host read of `OUT_MEM` returns: while BUSY a fresh draw under no law, else the byte (R254 (c), R262). -/
def hostReadOut (s : State) (a : Nat) : State :=
  if s.phase.busy then { s with hostData := (Config.busyRead s.draws).setWidth 32, draws := s.draws + 1 }
  else { s with hostData := (outByte s a).setWidth 32 }

/-- One host move (R262). A read changes nothing of the block (R61): its value goes to the host's side, `hostData`. -/
def hostMove (m : HostMove) (s : State) : Out :=
  match m with
  | .writeIn a b => whenNotBusy s (inAccess s a (.next { s with inMem := s.inMem.write a b }))
  | .readIn a => inAccess s a (.next { s with hostData := (inByte s a).setWidth 32 })
  | .writeOut a b => whenNotBusy s (outAccess s a (.next { s with outMem := s.outMem.write a b }))
  | .readOut a => outAccess s a (.next (hostReadOut s a))
  | .readReg offset width => regAccess offset width (.next { s with hostData := regRead s offset })
  | .writeReg offset width v => regAccess offset width (.next (regWrite s offset v))
  | .reset => .next (assertReset s)

end Sys2Proof.Machine
end

