-- ==== Sys2Proof/Machine/Step.lean ====
section
/-!
DEFINITION. One step of the machine: the agent whose turn it is moves (spec/10_state.md R20, spec/70_reset_and_hazards.md
R259). Also the host's placing of one instruction (notes/assumptions/5.md,
notes/assumptions/6.md).
-/
namespace Sys2Proof.Machine

/-- One step. The agenda says whose turn it is; once it is empty every turn is the block's. -/
def step (s : State) : Host.Outcome State Fault Refusal :=
  match s.agenda with
  | [] => blockStep s
  | .block :: rest => blockStep { s with agenda := rest }
  | .host m :: rest => hostMove m { s with agenda := rest }

/-- `s` with a table word stored and selected where the next step fetches. -/
def State.withFetchWord (s : State) (nbits w : Nat) : State := placeWord s nbits w

end Sys2Proof.Machine
end

