-- ==== Sys2Proof/Machine/Assembler.lean ====
section
/-!
DEFINITION. The spec's assembler notation (spec/30_encoding.md R86, R87): each statement's bytes by the table's own
formulas, and the pseudo-instructions as the one statement each expands to.
-/
namespace Sys2Proof.Machine

/-- A statement of R86. Back-references carry the length and the distance the parser delivers, not the stored fields. -/
inductive Stmt where
  | hdrA (n : Nat)
  | hdrB (n : Nat)
  | flagsA (r : Byte)
  | flagsB (r : Byte)
  | lit (b : Byte)
  | refaS (l d : Nat)
  | refaM (l d : Nat)
  | refaL (l d : Nat)
  | refbS (l d : Nat)
  | refbM (l d : Nat)
  | refbL (l d : Nat)
  | padb2 (y x : Byte)
  | padb3 (x1 x2 : Byte)
  | byte (b : Byte)
  deriving DecidableEq, Repr

/-- The operand ranges outside which an assembler refuses a statement (R86). -/
def Stmt.inRange : Stmt → Bool
  | .hdrA n => decide (n ≤ 16777215)
  | .hdrB n => decide (n ≤ 16777215)
  | .flagsA _ => true
  | .flagsB _ => true
  | .lit _ => true
  | .refaS l d => decide (3 ≤ l) && decide (l ≤ 16) && decide (1 ≤ d) && decide (d ≤ 4096)
  | .refaM l d => decide (17 ≤ l) && decide (l ≤ 272) && decide (1 ≤ d) && decide (d ≤ 4096)
  | .refaL l d => decide (273 ≤ l) && decide (l ≤ 65808) && decide (1 ≤ d) && decide (d ≤ 4096)
  | .refbS l d => decide (2 ≤ l) && decide (l ≤ 15) && decide (d ≤ 4095)
  | .refbM l d => decide (16 ≤ l) && decide (l ≤ 271) && decide (d ≤ 4095)
  | .refbL l d => decide (272 ≤ l) && decide (l ≤ 65807) && decide (d ≤ 4095)
  | .padb2 y _ => decide (y ≠ 0x80)
  | .padb3 _ _ => true
  | .byte _ => true

/-- The byte of a table formula. -/
def asByte (n : Nat) : Byte := BitVec.ofNat 8 n

/-- The bytes a statement emits (R86), the operands being in range. -/
def Stmt.bytes (p : Params) : Stmt → List Byte
  | .hdrA n => [p.tagA, asByte n, asByte (n >>> 8), asByte (n >>> 16)]
  | .hdrB n => [p.tagB, asByte n, asByte (n >>> 8), asByte (n >>> 16)]
  | .flagsA r => [r]
  | .flagsB r => [r]
  | .lit b => [b]
  | .refaS l d => [asByte (((l - 1) <<< 4) ||| ((d - 1) >>> 8)), asByte ((d - 1) &&& 0xFF)]
  | .refaM l d =>
    [asByte ((l - 17) >>> 4), asByte ((((l - 17) &&& 0xF) <<< 4) ||| ((d - 1) >>> 8)), asByte ((d - 1) &&& 0xFF)]
  | .refaL l d =>
    [asByte (0x10 ||| ((l - 273) >>> 12)), asByte (((l - 273) >>> 4) &&& 0xFF),
      asByte ((((l - 273) &&& 0xF) <<< 4) ||| ((d - 1) >>> 8)), asByte ((d - 1) &&& 0xFF)]
  | .refbS l d => [asByte (((d &&& 0xF) <<< 4) ||| l), asByte (d >>> 4)]
  | .refbM l d => [asByte ((d &&& 0xF) <<< 4), asByte (d >>> 4), asByte (l - 16)]
  | .refbL l d =>
    [asByte (((d &&& 0xF) <<< 4) ||| 1), asByte (d >>> 4), asByte ((l - 272) &&& 0xFF), asByte ((l - 272) >>> 8)]
  | .padb2 y x => [y, x]
  | .padb3 x1 x2 => [0x80, x1, x2]
  | .byte b => [b]

/-- Assemble one statement; out of range it is refused. -/
def assemble (p : Params) (t : Stmt) : Option (List Byte) := if t.inRange then some (t.bytes p) else none

/-- A pseudo-instruction of R87. -/
inductive Pseudo where
  /-- `FLAGS f`: effective flags. -/
  | flags (f : Byte)
  /-- `REF l, d`: the form of the stream's variant whose length range holds `l`. -/
  | ref (l d : Nat)
  /-- `PADB`. -/
  | padb
  deriving DecidableEq, Repr

/-- The one statement a pseudo-instruction expands to (R87). `PADB` belongs to variant B streams, and expands the same
everywhere (DEDUCED, notes/assumptions/21.md). -/
def Pseudo.expand : Variant → Pseudo → Stmt
  | .A, .flags f => .flagsA f
  | .B, .flags f => .flagsB (neg8 f)
  | .A, .ref l d => if l ≤ 16 then .refaS l d else if l ≤ 272 then .refaM l d else .refaL l d
  | .B, .ref l d => if l ≤ 15 then .refbS l d else if l ≤ 271 then .refbM l d else .refbL l d
  | _, .padb => .padb2 0 0

end Sys2Proof.Machine
end

