-- ==== Sys2Proof/Machine/Result.lean ====
section
/-!
DEFINITION. What a finished decode means to the host: the observation of a run (spec/70_reset_and_hazards.md R260) and the
source's contract `decode(compressed) -> (plain, warnings)` mapped onto the block (spec/45_completion.md R207, R208).
-/
namespace Sys2Proof.Machine

/-- `OUT_MEM[0 .. OUT_LEN-1]` (R205). -/
def outputBytes (s : State) : List Byte := (List.range s.outLen.toNat).map (outByte s)

/-- The output part of an observation. The bytes that a decode ended by BAD_DISTANCE has written are not a result, and the
observation excludes them (R227, R260, spec/93_implementation_defined.md Part 1). -/
def observedOutput (s : State) : Option (List Byte) :=
  if s.status.err = .badDistance then none else some (outputBytes s)

/-- The observation of a run (R260). -/
structure Observation where
  status : Word
  declLen : BitVec 24
  outLen : BitVec 24
  inConsumed : Word
  output : Option (List Byte)
  deriving DecidableEq, Repr

/-- The observation that a state in DONE or ERROR shows; `observeRun` takes it where a run ends (R260). -/
def observe (s : State) : Option Observation :=
  if s.phase.finished then
    some ⟨statusWord s.phase s.status, s.declLen, s.outLen, s.inConsumed, observedOutput s⟩
  else none

/-- Where a run ends: the first state in DONE or ERROR, looked for through at most `n` steps. A run that leaves BUSY
otherwise has been abandoned by reset and has no end (R251, R260). -/
def endOfRun : Nat → State → Option State
  | 0, s => if s.phase.finished then some s else none
  | n + 1, s =>
    if s.phase.finished then some s
    else if s.phase.busy then
      match step s with
      | .next t => endOfRun n t
      | .fault _ => none
      | .refused _ => none
    else none

/-- The observation of the run that begins in a state in HDR, which only an accepted START leads to (R100, R101): what its
first state in DONE or ERROR shows, if there is one within `n` steps (R260). -/
def observeRun (n : Nat) (s : State) : Option Observation :=
  if s.phase = .hdr then (endOfRun n s).bind observe else none

/-- The source's warnings (R220). -/
inductive Warning where
  | overrun
  | truncation
  | trailingData
  deriving DecidableEq, Repr

/-- The warning list in the order of R207. -/
def warningList (t : Status) : List Warning :=
  (if t.warnOverrun then [.overrun] else []) ++ (if t.warnTrunc then [.truncation] else []) ++
    (if t.warnTrailing then [.trailingData] else [])

/-- The result of the source's contract (R208). -/
inductive DecodeResult where
  /-- DONE. -/
  | plain (bytes : List Byte) (warnings : List Warning)
  /-- ERROR with FORMAT_SIZE or FORMAT_TAG. -/
  | formatError
  /-- ERROR with ALLOC. -/
  | allocationError
  /-- ERROR with BAD_DISTANCE, which the contract has no counterpart for (R223). -/
  | badDistance
  deriving DecidableEq, Repr

/-- The fatal result of an error code (R208). -/
def errorResult : ErrCode → Option DecodeResult
  | .noError => none
  | .formatSize => some .formatError
  | .formatTag => some .formatError
  | .alloc => some .allocationError
  | .badDistance => some .badDistance

/-- The result of a finished decode (R208). -/
def decodeResult (s : State) : Option DecodeResult :=
  match s.phase with
  | .done => some (.plain (outputBytes s) (warningList s.status))
  | .error => errorResult s.status.err
  | .idle => none
  | .hdr => none
  | .top => none
  | .copy => none
  | .post => none

end Sys2Proof.Machine
end

