-- ==== Sys2Proof/Safety.lean ====
section
/-!
DEFINITION. What a safe run is: the invariant that rules out the states no run reaches, part by part, and the terms the
statements use. Each part names the rule of spec/ it comes from.
-/
namespace Sys2Proof.Machine

/-! ## The parts of the invariant -/

/-- Phases in which the cursors are live: TOP, COPY, POST (R106). -/
def Phase.decoding : Phase → Bool
  | .top => true
  | .copy => true
  | .post => true
  | .idle => false
  | .hdr => false
  | .done => false
  | .error => false

/-- Both memories are canonical and list no address that does not exist (R53). -/
abbrev MemoriesWf (s : State) : Prop :=
  s.inMem.wf ∧ s.outMem.wf ∧ (∀ c ∈ s.inMem, c.1 < s.params.maxInLen) ∧ ∀ c ∈ s.outMem, c.1 < s.params.outCap.toNat

/-- `ERR` is non-zero exactly when `STATE` is ERROR (R25); before a header is accepted `STATUS` holds nothing (R25, R101,
R103), and the result registers are 0 until the decode ends (R27, R28, R29). -/
abbrev StatusWf (s : State) : Prop :=
  (s.status.err ≠ .noError ↔ s.phase = .error) ∧
  (s.phase = .idle ∨ s.phase = .hdr → s.status = Status.clear) ∧
  (s.status.variantValid = false → s.declLen = 0) ∧
  (s.phase = .idle ∨ s.phase.busy = true → s.outLen = 0 ∧ s.inConsumed = 0)

/-- Past the header the variant is the one `STATUS` shows (R33, R103). -/
abbrev VariantWf (s : State) : Prop :=
  (s.phase.decoding = true ∨ s.phase = .done → s.status.variantValid = true) ∧
  (s.status.variantValid = true → s.status.variantB = variantBit s.variant)

/-- While the cursors are live: the stream length is one R102 accepts, the cursors are in their bounds (R34, R35, R51,
R186), and `mask` is 0 or one-hot (R37). -/
abbrev CursorsWf (s : State) : Prop :=
  s.phase.decoding = true →
    (4 ≤ s.inCur.toNat ∧ s.inCur.toNat ≤ s.inLen.toNat ∧ s.inLen.toNat ≤ s.params.maxInLen) ∧
    (s.outCur.toNat ≤ s.declLen.toNat ∧ s.declLen.toNat ≤ s.params.outCap.toNat) ∧
    s.mask ∈ [0x00#8, 0x80#8, 0x40#8, 0x20#8, 0x10#8, 0x08#8, 0x04#8, 0x02#8, 0x01#8]

/-- In COPY there is a byte to copy, all of the run fits, and every read is of a byte already produced, at most 4096 back
(R52, R66, R180 to R183). -/
abbrev CopyWf (s : State) : Prop :=
  s.phase = .copy →
    (1 ≤ s.count.toNat ∧ s.outCur.toNat + s.count.toNat ≤ s.declLen.toNat) ∧
    (1 ≤ s.dist.toNat ∧ s.dist.toNat ≤ s.outCur.toNat ∧ s.dist.toNat ≤ 4096)

/-- How the warnings go with the cursors (R181, R203, R204, R207): an overrun fills the output, the completion warnings
wait for POST, and an error shows no warning (R227). -/
abbrev WarningsWf (s : State) : Prop :=
  (s.phase.decoding = true → s.status.warnTrunc = false ∧ s.status.warnTrailing = false) ∧
  (s.phase = .copy ∧ s.status.warnOverrun = true → s.outCur.toNat + s.count.toNat = s.declLen.toNat) ∧
  ((s.phase = .top ∨ s.phase = .post) ∧ s.status.warnOverrun = true → s.outCur = s.declLen) ∧
  (s.phase = .done →
    (s.status.warnTrunc = true ↔ s.outLen.toNat < s.declLen.toNat) ∧
    (s.status.warnOverrun = true → s.outLen = s.declLen) ∧
    (s.status.warnTrailing = true → s.outLen = s.declLen)) ∧
  (s.phase = .error →
    s.status.warnOverrun = false ∧ s.status.warnTrunc = false ∧ s.status.warnTrailing = false)

/-- What each fatal error records (R221, R222, R227). -/
abbrev ErrorsWf (s : State) : Prop :=
  (s.status.err = .formatSize ∨ s.status.err = .formatTag → s.status.variantValid = false ∧ s.outLen = 0 ∧ s.inConsumed = 0) ∧
  (s.status.err = .alloc →
    s.status.variantValid = true ∧ s.params.outCap.toNat < s.declLen.toNat ∧ s.outLen = 0 ∧ s.inConsumed = 0) ∧
  (s.status.err = .badDistance → s.status.variantValid = true ∧ s.outLen.toNat < s.declLen.toNat)

/-- The invariant of the machine: it holds at reset, and every step, the host's moves among them, keeps it. -/
abbrev State.Inv (s : State) : Prop :=
  s.params.Legal ∧ MemoriesWf s ∧ StatusWf s ∧ VariantWf s ∧ CursorsWf s ∧ CopyWf s ∧ WarningsWf s ∧ ErrorsWf s

/-! ## Terms of the statements -/

/-- The next turn is the block's. -/
def blocksTurn (s : State) : Bool :=
  match s.agenda with
  | [] => true
  | .block :: _ => true
  | .host _ :: _ => false

/-- The state with its next turn taken off the agenda. -/
def turnTaken (s : State) : State := { s with agenda := s.agenda.tail }

/-- `n` bytes of the stream are left at `in_cur`, all of them in `IN_MEM` (R50). -/
abbrev bytesLeft (n : Nat) (s : State) : Prop :=
  s.inCur.toNat + n ≤ s.inLen.toNat ∧ s.inLen.toNat ≤ s.params.maxInLen

/-- Two states that present the same stream to blocks with the same parameters (R261). -/
abbrev sameStream (s t : State) : Prop :=
  s.params = t.params ∧ s.inLen = t.inLen ∧ ∀ a, a < s.inLen.toNat → inByte s a = inByte t a

/-- `n` steps of the machine, stopping at the first fault or refusal. -/
abbrev run (n : Nat) (s : State) : Out := Host.Core.run Sys2Proof.core n s

/-- The stream that a state in HDR presents is well formed (R209). The block reaches POST: the header passed (a) and every
back-reference had a legal distance (b), since a failed check ends in ERROR. There no back-reference has been clamped (c),
the output is complete (d), and the POST step leaves the input cursor at the end of the input (e). -/
abbrev WellFormedStream (s : State) : Prop :=
  ∃ n t u, run n s = .next t ∧ t.phase = .post ∧ t.status.warnOverrun = false ∧ t.outCur = t.declLen ∧
    step t = .next u ∧ u.inCur = u.inLen

/-- A host move that only reads (R61). -/
def HostMove.reads : HostMove → Bool
  | .readIn _ => true
  | .readOut _ => true
  | .readReg _ _ => true
  | .writeIn _ _ => false
  | .writeOut _ _ => false
  | .writeReg _ _ _ => false
  | .reset => false

/-- A host turn that starts a decode or resets the block: the only ones that leave IDLE, DONE or ERROR (R228). -/
def Turn.startsOrResets : Turn → Bool
  | .host .reset => true
  | .host (.writeReg offset .word v) => decide (offset = 0) && v.getLsbD 0
  | _ => false

end Sys2Proof.Machine
end

