-- ==== Sys2Proof/Certificates/Slice0/Obligations.lean ====
section
/-!
DEFINITION. The statements for the provers. Each says in its docstring which rules of spec/ it formalises.
-/
open Sys2Proof Sys2Proof.Machine

/-! ## Encoding -/

/-- Words written out byte by byte from the encoding tables decode to the instruction they stand for, one for each row, LIT
in both variants (R71 to R81); the bytes of a token longer than what is given are refused. -/
def Obligations.WrittenOutWordsDecode : Prop :=
  ∀ p : Params, p.tagA ≠ p.tagB →
    decode p .header [p.tagA, 0x01, 0x04, 0xF0] = .ok (.hdrA 0xF00401, []) ∧
    decode p .header [p.tagB, 0x0A, 0x00, 0x00] = .ok (.hdrB 10, []) ∧
    decode p (.flags .A) [0x40, 0xAB] = .ok (.flagsA 0x40, [0xAB]) ∧
    decode p (.flags .B) [0xC0, 0x5A] = .ok (.flagsB 0xC0, [0x5A]) ∧
    decode p (.token .A false) [0xAB] = .ok (.lit 0xAB, []) ∧
    decode p (.token .B false) [0x80] = .ok (.lit 0x80, []) ∧
    decode p (.token .A true) [0x50, 0x02] = .ok (.refaS 5 0x002, []) ∧
    decode p (.token .A true) [0x01, 0x23, 0x45] = .ok (.refaM 0x12 0x345, []) ∧
    decode p (.token .A true) [0x1A, 0xBC, 0xDE, 0xF0] = .ok (.refaL 0xABCD 0xEF0, []) ∧
    decode p (.token .B true) [0x32, 0x54] = .ok (.refbS 2 0x543, []) ∧
    decode p (.token .B true) [0xA0, 0x05, 0x33] = .ok (.refbM 0x33 0x05A, []) ∧
    decode p (.token .B true) [0x21, 0x00, 0x1C, 0x01] = .ok (.refbL 0x011C 0x002, []) ∧
    decode p .trailer [0x7F, 0x55] = .ok (.padb2 0x7F 0x55, []) ∧
    decode p .trailer [0x80, 0x12, 0x34] = .ok (.padb3 0x12 0x34, []) ∧
    decode p (.token .A true) [0x10, 0x00, 0x00] = .error .tooShort

/-- Decoding the encoding of a well-formed instruction, in any context its row applies in and whatever bytes follow, gives
it back: no bit of any operand is dropped (R71 to R81, R86). -/
def Obligations.DecodeInvertsEncode : Prop :=
  ∀ (p : Params) (i : Instr) (c : Context) (rest : List Byte),
    p.tagA ≠ p.tagB → i.wellFormed = true → i.appliesIn c = true → decode p c (encode p i ++ rest) = .ok (i, rest)

/-- What the decoder answers is well formed, its row applies in the context, and it encodes to the very bytes that were
read: each instruction has one encoding (R82, R85). -/
def Obligations.EncodeInvertsDecode : Prop :=
  ∀ (p : Params) (c : Context) (bytes rest : List Byte) (i : Instr),
    decode p c bytes = .ok (i, rest) → encode p i ++ rest = bytes ∧ i.wellFormed = true ∧ i.appliesIn c = true

/-- A token's length follows from its flag bit and, for a back-reference, the tier nibble of its first byte; the tier of
the assembled word is that nibble (R73). -/
def Obligations.TokenLengthFollowsTier : Prop :=
  ∀ b0 b1 b2 b3 : Byte,
    (∀ v, (decodeToken v false b0 b1 b2 b3).byteCount = 1) ∧
    ((b0.toNat <<< 8 ||| b1.toNat) >>> 12 = b0.toNat / 16 ∧
      (decodeToken .A true b0 b1 b2 b3).byteCount =
        if b0.toNat / 16 = 0 then 3 else if b0.toNat / 16 = 1 then 4 else 2) ∧
    ((b0.toNat ||| b1.toNat <<< 8) &&& 0xF = b0.toNat % 16 ∧
      (decodeToken .B true b0 b1 b2 b3).byteCount =
        if b0.toNat % 16 = 0 then 3 else if b0.toNat % 16 = 1 then 4 else 2)

/-- The length and distance of every token are those of the parsers' arithmetic. Variant A: big-endian, the tier masked off
before the first fold, no mask on the second (R140 to R143). Variant B: little-endian, the length in extension bytes of its
own, no + 1 on the distance (R160 to R163). -/
def Obligations.ReferenceOperandsFollowParsers : Prop :=
  ∀ (b0 b1 b2 b3 : Byte) (v w u x : Nat),
    v = b0.toNat <<< 8 ||| b1.toNat → w = (v &&& 0xFFF) <<< 8 ||| b2.toNat → u = w <<< 8 ||| b3.toNat →
    x = b0.toNat ||| b1.toNat <<< 8 →
    refOperands (decodeToken .A true b0 b1 b2 b3) =
      some (if v >>> 12 = 0 then ((w >>> 12) + 16 + 1, (w &&& 0xFFF) + 1)
        else if v >>> 12 = 1 then ((u >>> 12) + 272 + 1, (u &&& 0xFFF) + 1)
        else ((v >>> 12) + 0 + 1, (v &&& 0xFFF) + 1)) ∧
    refOperands (decodeToken .B true b0 b1 b2 b3) =
      some (if x &&& 0xF = 0 then (b2.toNat + 16, x >>> 4)
        else if x &&& 0xF = 1 then ((b3.toNat <<< 8 ||| b2.toNat) + 272, x >>> 4)
        else (x &&& 0xF, x >>> 4))

/-- The ranges variant A produces: each form covers its own lengths, which do not overlap, and every distance 1..4096 can
be encoded with each of them (R145). -/
def Obligations.VariantARanges : Prop :=
  (∀ (i : Instr) (l d : Nat), i.wellFormed = true → i.appliesIn (.token .A true) = true → refOperands i = some (l, d) →
    3 ≤ l ∧ l ≤ 65808 ∧ 1 ≤ d ∧ d ≤ 4096 ∧ i.byteCount = if l ≤ 16 then 2 else if l ≤ 272 then 3 else 4) ∧
  ∀ l d : Nat, 1 ≤ d → d ≤ 4096 →
    (3 ≤ l → l ≤ 16 → ∃ t e, Instr.wellFormed (.refaS t e) = true ∧ refOperands (.refaS t e) = some (l, d)) ∧
    (17 ≤ l → l ≤ 272 → ∃ m e, refOperands (.refaM m e) = some (l, d)) ∧
    (273 ≤ l → l ≤ 65808 → ∃ m e, refOperands (.refaL m e) = some (l, d))

/-- The ranges variant B produces: each form covers its own lengths, which do not overlap, with every distance 0..4095
(R165; that distance 0 never runs is `BadDistanceIsFatal`). -/
def Obligations.VariantBRanges : Prop :=
  (∀ (i : Instr) (l d : Nat), i.wellFormed = true → i.appliesIn (.token .B true) = true → refOperands i = some (l, d) →
    2 ≤ l ∧ l ≤ 65807 ∧ d ≤ 4095 ∧ i.byteCount = if l ≤ 15 then 2 else if l ≤ 271 then 3 else 4) ∧
  ∀ l d : Nat, d ≤ 4095 →
    (2 ≤ l → l ≤ 15 → ∃ t e, Instr.wellFormed (.refbS t e) = true ∧ refOperands (.refbS t e) = some (l, d)) ∧
    (16 ≤ l → l ≤ 271 → ∃ m e, refOperands (.refbM m e) = some (l, d)) ∧
    (272 ≤ l → l ≤ 65807 → ∃ m e, refOperands (.refbL m e) = some (l, d))

/-- No encoding is redundant: within a variant, a (length, distance) pair has exactly one back-reference (R82). -/
def Obligations.ReferenceEncodingIsUnique : Prop :=
  ∀ (v : Variant) (i j : Instr) (l d : Nat),
    i.wellFormed = true → j.wellFormed = true →
    i.appliesIn (.token v true) = true → j.appliesIn (.token v true) = true →
    refOperands i = some (l, d) → refOperands j = some (l, d) → i = j

/-- The assembler's table is the inverse of the decoder: a statement in range assembles, and its bytes decode to the form it
names with the operands it names (R86). -/
def Obligations.AssembledStatementsDecode : Prop :=
  ∀ (p : Params) (rest : List Byte), p.tagA ≠ p.tagB →
    (∀ n, n ≤ 16777215 →
      decode p .header (Stmt.bytes p (.hdrA n) ++ rest) = .ok (.hdrA (BitVec.ofNat 24 n), rest) ∧
      decode p .header (Stmt.bytes p (.hdrB n) ++ rest) = .ok (.hdrB (BitVec.ofNat 24 n), rest)) ∧
    (∀ l d, Stmt.inRange (.refaS l d) = true → ∃ t e,
      decode p (.token .A true) (Stmt.bytes p (.refaS l d) ++ rest) = .ok (.refaS t e, rest) ∧
      refOperands (.refaS t e) = some (l, d)) ∧
    (∀ l d, Stmt.inRange (.refaM l d) = true → ∃ m e,
      decode p (.token .A true) (Stmt.bytes p (.refaM l d) ++ rest) = .ok (.refaM m e, rest) ∧
      refOperands (.refaM m e) = some (l, d)) ∧
    (∀ l d, Stmt.inRange (.refaL l d) = true → ∃ m e,
      decode p (.token .A true) (Stmt.bytes p (.refaL l d) ++ rest) = .ok (.refaL m e, rest) ∧
      refOperands (.refaL m e) = some (l, d)) ∧
    (∀ l d, Stmt.inRange (.refbS l d) = true → ∃ t e,
      decode p (.token .B true) (Stmt.bytes p (.refbS l d) ++ rest) = .ok (.refbS t e, rest) ∧
      refOperands (.refbS t e) = some (l, d)) ∧
    (∀ l d, Stmt.inRange (.refbM l d) = true → ∃ m e,
      decode p (.token .B true) (Stmt.bytes p (.refbM l d) ++ rest) = .ok (.refbM m e, rest) ∧
      refOperands (.refbM m e) = some (l, d)) ∧
    ∀ l d, Stmt.inRange (.refbL l d) = true → ∃ m e,
      decode p (.token .B true) (Stmt.bytes p (.refbL l d) ++ rest) = .ok (.refbL m e, rest) ∧
      refOperands (.refbL m e) = some (l, d)

/-- What each pseudo-instruction expands to (R87): `FLAGS f` to the stored byte whose effective flags are `f`; `REF l, d` to
the form of the variant whose length range holds `l`, with the same `l` and `d`, which is in range where some form is;
`PADB` to `PADB2 0, 0`, in either variant (that it does so in variant A too is the model's, notes/assumptions/21.md). -/
def Obligations.PseudoInstructionsExpand : Prop :=
  (∀ f : Byte, Pseudo.expand .A (.flags f) = .flagsA f ∧ effectiveFlags .A f = f ∧
    Pseudo.expand .B (.flags f) = .flagsB (neg8 f) ∧ effectiveFlags .B (neg8 f) = f) ∧
  (∀ l d,
    (l ≤ 16 → Pseudo.expand .A (.ref l d) = .refaS l d) ∧
    (17 ≤ l → l ≤ 272 → Pseudo.expand .A (.ref l d) = .refaM l d) ∧
    (273 ≤ l → Pseudo.expand .A (.ref l d) = .refaL l d) ∧
    (3 ≤ l → l ≤ 65808 → 1 ≤ d → d ≤ 4096 → (Pseudo.expand .A (.ref l d)).inRange = true)) ∧
  (∀ l d,
    (l ≤ 15 → Pseudo.expand .B (.ref l d) = .refbS l d) ∧
    (16 ≤ l → l ≤ 271 → Pseudo.expand .B (.ref l d) = .refbM l d) ∧
    (272 ≤ l → Pseudo.expand .B (.ref l d) = .refbL l d) ∧
    (2 ≤ l → l ≤ 65807 → d ≤ 4095 → (Pseudo.expand .B (.ref l d)).inRange = true)) ∧
  ∀ v, Pseudo.expand v .padb = .padb2 0 0

/-- `neg8` is 8-bit two's-complement negation, its own inverse, and never the bitwise complement (R13). -/
def Obligations.FlagsNegationIsArithmetic : Prop :=
  (∀ x : Byte, (neg8 x).toNat = (256 - x.toNat) % 256 ∧ neg8 (neg8 x) = x ∧ neg8 x ≠ ~~~x) ∧
  neg8 0x00 = 0x00 ∧ neg8 0x01 = 0xFF ∧ neg8 0x80 = 0x80

/-! ## A step runs the decoded instruction -/

/-- HDR: when the bytes at addresses 0..3 of an acceptable length decode as a header, the step is `exec` of it (R85, R102,
R103). -/
def Obligations.StepRunsHeader : Prop :=
  ∀ (s : State) (i : Instr) (rest : List Byte),
    s.agenda = [] → s.phase = .hdr → 4 ≤ s.inLen.toNat → s.inLen.toNat ≤ s.params.maxInLen →
    decode s.params .header (streamBytes s 0 4) = .ok (i, rest) → step s = exec i s

/-- TOP with the mask exhausted: when the byte at the input cursor decodes as a flags byte, the step is `exec` of it and
then, in the state it leaves, the bit test and its token, which `StepRunsToken` describes (R120 to R123). -/
def Obligations.StepRunsFlagsByte : Prop :=
  ∀ (s : State) (i : Instr) (rest : List Byte),
    s.agenda = [] → s.phase = .top → s.outCur.toNat < s.declLen.toNat → s.inCur.toNat < s.inLen.toNat → s.mask = 0 →
    decode s.params (.flags s.variant) (streamBytes s s.inCur.toNat 1) = .ok (i, rest) →
    step s =
      match exec i s with
      | .next t => tokenStep t
      | .fault e => .fault e
      | .refused e => .refused e

/-- The bit test and its token: when the bytes at the input cursor decode as the token that the current flag bit selects,
the rest of the iteration is `exec` of it with the mask shifted. With a mask that is not exhausted it is the whole step
(R120, R123, R126). -/
def Obligations.StepRunsToken : Prop :=
  ∀ (s : State) (i : Instr) (rest : List Byte),
    decode s.params (.token s.variant (flagBit s)) (streamBytes s s.inCur.toNat 4) = .ok (i, rest) →
    tokenStep s = exec i { s with mask := s.mask >>> 1 } ∧
    (s.agenda = [] → s.phase = .top → s.outCur.toNat < s.declLen.toNat → s.inCur.toNat < s.inLen.toNat → s.mask ≠ 0 →
      step s = exec i { s with mask := s.mask >>> 1 })

/-- POST of variant B: when the bytes at the input cursor decode as a trailer, the step has the result of `exec` of it,
whatever the skipped bytes are (R81, R201; that the block decodes them as 0x00 is the model's, notes/assumptions/10.md). -/
def Obligations.StepRunsTrailer : Prop :=
  ∀ (s : State) (i : Instr) (rest : List Byte),
    s.agenda = [] → s.phase = .post → s.variant = .B →
    decode s.params .trailer (streamBytes s s.inCur.toNat 3) = .ok (i, rest) → step s = exec i s

/-- Whose turn it is: with an empty agenda, or a block turn, the block steps; on a host turn the host moves; the turn is
taken off (R20, R259; the agenda is the model's, notes/assumptions/8.md). -/
def Obligations.StepTakesTheNextTurn : Prop :=
  ∀ s : State,
    (s.agenda = [] → step s = blockStep s) ∧
    (∀ r, s.agenda = .block :: r → step s = blockStep { s with agenda := r }) ∧
    ∀ m r, s.agenda = .host m :: r → step s = hostMove m { s with agenda := r }

/-! ## The steps of the block -/

/-- The HDR step in full: the size check before any byte is read, then the tag, the little-endian declared length, the
allocation check and the decode initialization; the first check to fail is the one reported (R102 to R106). That `flags`
keeps its value is the model's, notes/assumptions/23.md. -/
def Obligations.HeaderStep : Prop :=
  ∀ (s : State) (n : Nat), s.phase = .hdr →
    n = (inByte s 1).toNat ||| (inByte s 2).toNat <<< 8 ||| (inByte s 3).toNat <<< 16 →
    (s.inLen.toNat < 4 ∨ s.params.maxInLen < s.inLen.toNat →
      blockStep s =
        .next { s with status := { s.status with err := .formatSize }, phase := .error, outLen := 0, inConsumed := 0 }) ∧
    (4 ≤ s.inLen.toNat → s.inLen.toNat ≤ s.params.maxInLen →
      (inByte s 0 ≠ s.params.tagA → inByte s 0 ≠ s.params.tagB →
        blockStep s =
          .next { s with status := { s.status with err := .formatTag }, phase := .error, outLen := 0, inConsumed := 0 }) ∧
      ∀ v : Variant, (v = .A → inByte s 0 = s.params.tagA) →
        (v = .B → inByte s 0 = s.params.tagB ∧ inByte s 0 ≠ s.params.tagA) →
        (s.params.outCap.toNat < n →
          blockStep s =
            .next { s with
              variant := v, declLen := BitVec.ofNat 24 n, phase := .error, outLen := 0, inConsumed := 0,
              status := { s.status with err := .alloc, variantB := decide (v = .B), variantValid := true } }) ∧
        (n ≤ s.params.outCap.toNat →
          blockStep s =
            .next { s with
              variant := v, declLen := BitVec.ofNat 24 n, phase := .top, inCur := 4, outCur := 0, mask := 0,
              status := { s.status with variantB := decide (v = .B), variantValid := true } }))

/-- A declared length of 0: three steps after START the decode is DONE with no output. A 4-byte stream ends without a
warning in variant A, and with `IN_CONSUMED = 6` and WARN_TRAILING in variant B (R107). -/
def Obligations.EmptyStreamCompletes : Prop :=
  ∀ s : State, s.Inv → s.agenda = [] → s.phase = .hdr → 4 ≤ s.inLen.toNat → s.inLen.toNat ≤ s.params.maxInLen →
    inByte s 0 = s.params.tagA ∨ inByte s 0 = s.params.tagB →
    inByte s 1 = 0 → inByte s 2 = 0 → inByte s 3 = 0 →
    ∃ t, run 3 s = .next t ∧ t.phase = .done ∧ t.outLen = 0 ∧
      (s.inLen = 4 → inByte s 0 = s.params.tagA → t.inConsumed = 4 ∧ warningList t.status = []) ∧
      (s.inLen = 4 → inByte s 0 = s.params.tagB → t.inConsumed = 6 ∧ warningList t.status = [.trailingData])

/-- The flags fetch: the byte at the cursor, as stored in variant A and negated in variant B, with the mask on its top bit;
then the bit test of the same iteration, whether or not a byte is left (R121, R122). -/
def Obligations.FlagsFetchLoadsFlags : Prop :=
  ∀ s : State, s.phase = .top → s.mask = 0 → s.outCur.toNat < s.declLen.toNat →
    s.inCur.toNat < s.inLen.toNat → s.inLen.toNat ≤ s.params.maxInLen →
    (s.variant = .A →
      blockStep s = tokenStep { s with inCur := s.inCur + 1, mask := 0x80, flags := inByte s s.inCur.toNat }) ∧
    (s.variant = .B →
      blockStep s =
        tokenStep { s with
          inCur := s.inCur + 1, mask := 0x80
          flags := BitVec.ofNat 8 ((256 - (inByte s s.inCur.toNat).toNat) % 256) })

/-- How an iteration chooses. The loop test opens every TOP step: output complete or input exhausted goes to POST and reads
nothing; otherwise a flags fetch when the mask is exhausted, and the bit test when it is not (R120). The bit test: the
current flag bit selects a literal or the variant's back-reference, in a state whose mask is shifted already; `0x01` shifts
to 0 (R123). -/
def Obligations.IterationChoosesItsToken : Prop :=
  (∀ s : State, s.phase = .top →
    (s.declLen.toNat ≤ s.outCur.toNat ∨ s.inLen.toNat ≤ s.inCur.toNat → blockStep s = .next { s with phase := .post }) ∧
    (s.outCur.toNat < s.declLen.toNat → s.inCur.toNat < s.inLen.toNat →
      (s.mask = 0 → blockStep s = flagsStep s) ∧ (s.mask ≠ 0 → blockStep s = tokenStep s))) ∧
  (∀ s : State,
    (s.flags &&& s.mask = 0 → tokenStep s = exec (.lit (streamByte s s.inCur.toNat 0)) { s with mask := s.mask >>> 1 }) ∧
    (s.flags &&& s.mask ≠ 0 →
      tokenStep s =
        exec (decodeRef s.variant (streamByte s s.inCur.toNat 0) (streamByte s s.inCur.toNat 1)
          (streamByte s s.inCur.toNat 2) (streamByte s s.inCur.toNat 3)) { s with mask := s.mask >>> 1 })) ∧
  (0x01#8 >>> 1) = 0

/-- The literal of an iteration: the byte at the cursor goes to the output unchanged; with no byte left nothing is read or
written and the loop ends (R124, R125). -/
def Obligations.LiteralIterationCopiesByte : Prop :=
  ∀ s : State, s.flags &&& s.mask = 0 →
    (s.inLen.toNat ≤ s.inCur.toNat → tokenStep s = .next { s with mask := s.mask >>> 1, phase := .post }) ∧
    (s.inCur.toNat < s.inLen.toNat → s.inLen.toNat ≤ s.params.maxInLen → s.outCur.toNat < s.params.outCap.toNat →
      ∃ t, tokenStep s = .next t ∧
        t = { s with
          mask := s.mask >>> 1, inCur := s.inCur + 1, outCur := s.outCur + 1, phase := .top
          outMem := s.outMem.write s.outCur.toNat (inByte s s.inCur.toNat) } ∧
        outByte t s.outCur.toNat = inByte s s.inCur.toNat ∧
        ∀ a, a ≠ s.outCur.toNat → outByte t a = outByte s a)

/-- One copy step: the byte `dist` back, as every earlier step left it, is appended; the count goes down and TOP follows at
0 (R183). -/
def Obligations.CopyStepCopiesOneByte : Prop :=
  ∀ s : State, s.phase = .copy → 1 ≤ s.dist.toNat → s.dist.toNat ≤ s.outCur.toNat →
    s.outCur.toNat < s.params.outCap.toNat →
    ∃ t, blockStep s = .next t ∧
      t = { s with
        outMem := s.outMem.write s.outCur.toNat (outByte s (s.outCur.toNat - s.dist.toNat))
        outCur := s.outCur + 1, count := s.count - 1, phase := if s.count - 1 = 0 then .top else .copy } ∧
      outByte t s.outCur.toNat = outByte s (s.outCur.toNat - s.dist.toNat) ∧
      ∀ a, a ≠ s.outCur.toNat → outByte t a = outByte s a

/-- The POST step: variant A skips nothing, variant B 3 bytes at the sentinel 0x80 and 2 otherwise, a missing byte being no
sentinel; then the truncation and trailing-data warnings, the final results and DONE (R201 to R206). -/
def Obligations.PostStepCompletes : Prop :=
  ∀ (s : State) (skip : BitVec 32), s.phase = .post → s.inLen.toNat ≤ s.params.maxInLen →
    (s.variant = .A → skip = 0) →
    (s.variant = .B → s.inCur.toNat < s.inLen.toNat → inByte s s.inCur.toNat = 0x80 → skip = 3) →
    (s.variant = .B → s.inCur.toNat < s.inLen.toNat → inByte s s.inCur.toNat ≠ 0x80 → skip = 2) →
    (s.variant = .B → s.inLen.toNat ≤ s.inCur.toNat → skip = 2) →
    blockStep s =
      .next { s with
        inCur := s.inCur + skip
        status := { s.status with
          warnTrunc := s.status.warnTrunc || decide (s.outCur.toNat < s.declLen.toNat)
          warnTrailing := s.status.warnTrailing || (decide (s.outCur = s.declLen) && decide (s.inCur + skip ≠ s.inLen)) }
        outLen := s.outCur
        inConsumed := s.inCur + skip
        phase := .done }

/-- POST is entered only from TOP, at the loop test or where the input ends inside a token, and what enters it writes no
output (R200). -/
def Obligations.PostIsEnteredFromTop : Prop :=
  ∀ s t : State, blockStep s = .next t → t.phase = .post →
    s.phase = .top ∧ (s.declLen.toNat ≤ s.outCur.toNat ∨ s.inLen.toNat < t.inCur.toNat + 2) ∧
      t.outMem = s.outMem ∧ t.outCur = s.outCur ∧ t.status = s.status

/-! ## What each row does when it completes -/

/-- HDR.A and HDR.B complete: an acceptable length and a declared length within the capacity (R103 to R106). That `flags`
keeps its value is the model's, notes/assumptions/23.md. -/
def Obligations.HeaderRowsComplete : Prop :=
  ∀ (s : State) (n : BitVec 24),
    4 ≤ s.inLen.toNat → s.inLen.toNat ≤ s.params.maxInLen → n.toNat ≤ s.params.outCap.toNat →
    exec (.hdrA n) s =
      .next { s with
        variant := .A, declLen := n, phase := .top, inCur := 4, outCur := 0, mask := 0
        status := { s.status with variantB := false, variantValid := true } } ∧
    exec (.hdrB n) s =
      .next { s with
        variant := .B, declLen := n, phase := .top, inCur := 4, outCur := 0, mask := 0
        status := { s.status with variantB := true, variantValid := true } }

/-- FLAGS.A and FLAGS.B complete with a byte left (R121, R122). -/
def Obligations.FlagsRowsComplete : Prop :=
  ∀ (s : State) (raw : Byte), bytesLeft 1 s →
    exec (.flagsA raw) s = .next { s with inCur := s.inCur + 1, flags := raw, mask := 0x80 } ∧
    exec (.flagsB raw) s =
      .next { s with inCur := s.inCur + 1, flags := BitVec.ofNat 8 ((256 - raw.toNat) % 256), mask := 0x80 }

/-- LIT completes with a byte left and room in `OUT_MEM` (R124). -/
def Obligations.LiteralRowCompletes : Prop :=
  ∀ (s : State) (b : Byte), bytesLeft 1 s → s.outCur.toNat < s.params.outCap.toNat →
    exec (.lit b) s =
      .next { s with
        inCur := s.inCur + 1, outCur := s.outCur + 1, phase := .top, outMem := s.outMem.write s.outCur.toNat b }

/-- Every back-reference row, REFA.S, REFA.M, REFA.L, REFB.S, REFB.M and REFB.L, completes when all its bytes are left and
its distance is legal: the operands are delivered, the length is clamped to the output space left, with WARN_OVERRUN set
exactly when it was longer, and the copy is set up (R141 to R143, R161 to R163, R181, R182). -/
def Obligations.ReferenceRowsComplete : Prop :=
  ∀ (s : State) (i : Instr) (l d : Nat),
    refOperands i = some (l, d) → bytesLeft i.byteCount s → 1 ≤ d → d ≤ s.outCur.toNat →
    exec i s =
      .next { s with
        inCur := s.inCur + BitVec.ofNat 32 i.byteCount
        dist := BitVec.ofNat 13 d
        length := BitVec.ofNat 17 (min l (s.declLen.toNat - s.outCur.toNat))
        count := BitVec.ofNat 17 (min l (s.declLen.toNat - s.outCur.toNat))
        status := { s.status with
          warnOverrun := s.status.warnOverrun || decide (s.declLen.toNat - s.outCur.toNat < l) }
        phase := .copy }

/-- PADB2 and PADB3 complete: the skip, the completion warnings, the final results, DONE (R201, R203 to R206). -/
def Obligations.PaddingRowsComplete : Prop :=
  ∀ (s : State) (i : Instr) (n : Nat), s.inLen.toNat ≤ s.params.maxInLen →
    (∃ y x, i = .padb2 y x ∧ n = 2) ∨ (∃ x1 x2, i = .padb3 x1 x2 ∧ n = 3) →
    exec i s =
      .next { s with
        inCur := s.inCur + BitVec.ofNat 32 n
        status := { s.status with
          warnTrunc := s.status.warnTrunc || decide (s.outCur.toNat < s.declLen.toNat)
          warnTrailing := s.status.warnTrailing ||
            (decide (s.outCur = s.declLen) && decide (s.inCur + BitVec.ofNat 32 n ≠ s.inLen)) }
        outLen := s.outCur
        inConsumed := s.inCur + BitVec.ofNat 32 n
        phase := .done }

/-! ## Where rows end a decode -/

/-- The distance check: with all the token's bytes left, distance 0 or a distance before the start of the output is
BAD_DISTANCE, recorded with `OUT_LEN` the output so far and `IN_CONSUMED` just past the token, and nothing else changes but
the operand registers; any other distance, `out_cur` itself among them, goes on to the copy. Variant A never produces 0
(R180, R227). -/
def Obligations.BadDistanceIsFatal : Prop :=
  ∀ (s : State) (i : Instr) (l d : Nat),
    refOperands i = some (l, d) →
    (i.appliesIn (.token .A true) = true → d ≠ 0) ∧
    (bytesLeft i.byteCount s →
      (d = 0 ∨ s.outCur.toNat < d →
        exec i s =
          .next { s with
            inCur := s.inCur + BitVec.ofNat 32 i.byteCount
            length := BitVec.ofNat 17 l, dist := BitVec.ofNat 13 d
            status := { s.status with err := .badDistance }
            phase := .error
            outLen := s.outCur
            inConsumed := s.inCur + BitVec.ofNat 32 i.byteCount }) ∧
      (d ≠ 0 → d ≤ s.outCur.toNat → ∃ t, exec i s = .next t ∧ t.phase = .copy))

/-- A token cut short: with fewer than 2 bytes left nothing of it is consumed; cut before an extension byte, the bytes
before it stay consumed. The loop ends, no copy is set up and no output byte is written (R140, R144, R160, R164; `length` is
left out, notes/assumptions/11.md). -/
def Obligations.CutTokenEndsLoop : Prop :=
  ∀ (s : State) (i : Instr) (l d k : Nat),
    refOperands i = some (l, d) → s.inLen.toNat ≤ s.params.maxInLen →
    s.inCur.toNat ≤ s.inLen.toNat → k = s.inLen.toNat - s.inCur.toNat → k < i.byteCount →
    ∃ t, exec i s = .next t ∧ t.phase = .post ∧
      t.inCur = s.inCur + (if k < 2 then 0 else BitVec.ofNat 32 k) ∧
      t.outMem = s.outMem ∧ t.outCur = s.outCur ∧ t.count = s.count ∧ t.dist = s.dist ∧ t.status = s.status

/-! ## Frames: what each row leaves unchanged -/

/-- HDR.A and HDR.B leave every datapath register but `variant`, `in_cur`, `out_cur` and `mask`, the stream, every byte of
both memories and the warning bits; a rejected header leaves those cursors and the mask too, and an accepted one the result
registers and `ERR` (R102 to R106, R227). That `flags` keeps its value is the model's, notes/assumptions/23.md. -/
def Obligations.HeaderRowsFrame : Prop :=
  ∀ (s t : State) (i : Instr) (n : BitVec 24), i = .hdrA n ∨ i = .hdrB n → exec i s = .next t →
    (t.params = s.params ∧ t.inLen = s.inLen ∧ t.flags = s.flags ∧ t.length = s.length ∧ t.dist = s.dist ∧
      t.count = s.count ∧ t.agenda = s.agenda ∧ t.hostData = s.hostData ∧ t.draws = s.draws) ∧
    (t.status.warnOverrun = s.status.warnOverrun ∧ t.status.warnTrunc = s.status.warnTrunc ∧
      t.status.warnTrailing = s.status.warnTrailing) ∧
    (t.phase = .error → t.inCur = s.inCur ∧ t.outCur = s.outCur ∧ t.mask = s.mask) ∧
    (t.phase ≠ .error → t.outLen = s.outLen ∧ t.inConsumed = s.inConsumed ∧ t.status.err = s.status.err) ∧
    (∀ a, inByte t a = inByte s a) ∧ ∀ a, outByte t a = outByte s a

/-- FLAGS.A and FLAGS.B leave everything but `in_cur`, `flags`, `mask` and the phase (R121, R122). -/
def Obligations.FlagsRowsFrame : Prop :=
  ∀ (s t : State) (i : Instr) (raw : Byte), i = .flagsA raw ∨ i = .flagsB raw → exec i s = .next t →
    (t.params = s.params ∧ t.status = s.status ∧ t.inLen = s.inLen ∧ t.declLen = s.declLen ∧ t.outLen = s.outLen ∧
      t.inConsumed = s.inConsumed ∧ t.variant = s.variant ∧ t.outCur = s.outCur ∧ t.length = s.length ∧
      t.dist = s.dist ∧ t.count = s.count ∧ t.agenda = s.agenda ∧ t.hostData = s.hostData ∧ t.draws = s.draws) ∧
    (∀ a, inByte t a = inByte s a) ∧ ∀ a, outByte t a = outByte s a

/-- LIT leaves everything but `in_cur`, `out_cur`, the phase and the one byte of `OUT_MEM` at the output cursor; cut short,
it stores nothing (R124, R125). -/
def Obligations.LiteralRowFrame : Prop :=
  ∀ (s t : State) (b : Byte), exec (.lit b) s = .next t →
    (t.params = s.params ∧ t.status = s.status ∧ t.inLen = s.inLen ∧ t.declLen = s.declLen ∧ t.outLen = s.outLen ∧
      t.inConsumed = s.inConsumed ∧ t.variant = s.variant ∧ t.flags = s.flags ∧ t.mask = s.mask ∧
      t.length = s.length ∧ t.dist = s.dist ∧ t.count = s.count ∧ t.agenda = s.agenda ∧ t.hostData = s.hostData ∧
      t.draws = s.draws) ∧
    (∀ a, inByte t a = inByte s a) ∧
    (∀ a, a ≠ s.outCur.toNat → outByte t a = outByte s a) ∧
    (t.phase = .post → t.outCur = s.outCur ∧ ∀ a, outByte t a = outByte s a)

/-- The six back-reference rows write no byte of memory: the copy steps do. They leave everything but `in_cur`, `length`,
`dist`, `count`, the phase, WARN_OVERRUN, and on BAD_DISTANCE `ERR` and the result registers (R140 to R144, R160 to R164,
R180 to R182, R227). -/
def Obligations.ReferenceRowsFrame : Prop :=
  ∀ (s t : State) (i : Instr) (l d : Nat), refOperands i = some (l, d) → exec i s = .next t →
    (t.params = s.params ∧ t.inLen = s.inLen ∧ t.declLen = s.declLen ∧ t.variant = s.variant ∧ t.outCur = s.outCur ∧
      t.flags = s.flags ∧ t.mask = s.mask ∧ t.agenda = s.agenda ∧ t.hostData = s.hostData ∧ t.draws = s.draws) ∧
    (t.status.warnTrunc = s.status.warnTrunc ∧ t.status.warnTrailing = s.status.warnTrailing ∧
      t.status.variantB = s.status.variantB ∧ t.status.variantValid = s.status.variantValid) ∧
    (t.phase ≠ .error → t.outLen = s.outLen ∧ t.inConsumed = s.inConsumed ∧ t.status.err = s.status.err) ∧
    (t.phase ≠ .copy → t.count = s.count ∧ t.status.warnOverrun = s.status.warnOverrun) ∧
    (∀ a, inByte t a = inByte s a) ∧ ∀ a, outByte t a = outByte s a

/-- PADB2 and PADB3 leave everything but `in_cur`, `OUT_LEN`, `IN_CONSUMED`, the phase and the two completion warnings; they
write no byte of memory (R201, R203 to R206). -/
def Obligations.PaddingRowsFrame : Prop :=
  ∀ (s t : State) (i : Instr), i.appliesIn .trailer = true → exec i s = .next t →
    (t.params = s.params ∧ t.inLen = s.inLen ∧ t.declLen = s.declLen ∧ t.variant = s.variant ∧ t.outCur = s.outCur ∧
      t.flags = s.flags ∧ t.mask = s.mask ∧ t.length = s.length ∧ t.dist = s.dist ∧ t.count = s.count ∧
      t.agenda = s.agenda ∧ t.hostData = s.hostData ∧ t.draws = s.draws) ∧
    (t.status.err = s.status.err ∧ t.status.warnOverrun = s.status.warnOverrun ∧
      t.status.variantB = s.status.variantB ∧ t.status.variantValid = s.status.variantValid) ∧
    (∀ a, inByte t a = inByte s a) ∧ ∀ a, outByte t a = outByte s a

/-! ## The host's side -/

/-- START: a `CTRL` write with bit 0 set is accepted in IDLE, DONE and ERROR, where it clears every result and makes HDR
next in the same move; while BUSY it changes nothing. With bit 0 clear a `CTRL` write does nothing (R100, R101). That an
accepted START keeps `flags` is the model's, notes/assumptions/23.md. -/
def Obligations.StartIsAcceptedWhenNotBusy : Prop :=
  ∀ (s : State) (v : Word),
    (v.getLsbD 0 = true → s.phase = .idle ∨ s.phase = .done ∨ s.phase = .error →
      hostMove (.writeReg 0x00 .word v) s =
        .next { s with
          status := ⟨.noError, false, false, false, false, false⟩, declLen := 0, outLen := 0, inConsumed := 0,
          phase := .hdr }) ∧
    (v.getLsbD 0 = true → s.phase = .hdr ∨ s.phase = .top ∨ s.phase = .copy ∨ s.phase = .post →
      hostMove (.writeReg 0x00 .word v) s = .next s) ∧
    (v.getLsbD 0 = false → hostMove (.writeReg 0x00 .word v) s = .next s)

/-- The register map: what the host reads at each register's offset, where the fields of `STATUS` stand and the number each
phase and each error shows there (R25, R32, R220), and what a write does: `IN_LEN` takes any value while not BUSY and none while BUSY, the read-only registers take none (R23 to R30). -/
def Obligations.RegisterMap : Prop :=
  ∀ (s : State) (v : Word),
    (hostMove (.readReg 0x00 .word) s = .next { s with hostData := 0 } ∧
      hostMove (.readReg 0x04 .word) s = .next { s with hostData := statusWord s.phase s.status } ∧
      hostMove (.readReg 0x08 .word) s = .next { s with hostData := s.inLen } ∧
      hostMove (.readReg 0x0C .word) s = .next { s with hostData := s.declLen.setWidth 32 } ∧
      hostMove (.readReg 0x10 .word) s = .next { s with hostData := s.outLen.setWidth 32 } ∧
      hostMove (.readReg 0x14 .word) s = .next { s with hostData := s.inConsumed } ∧
      hostMove (.readReg 0x18 .word) s = .next { s with hostData := BitVec.ofNat 32 s.params.maxInLen } ∧
      hostMove (.readReg 0x1C .word) s = .next { s with hostData := s.params.outCap.setWidth 32 }) ∧
    ((s.phase = .idle → (statusWord s.phase s.status).extractLsb' 0 2 = 0) ∧
      (s.phase = .hdr ∨ s.phase = .top ∨ s.phase = .copy ∨ s.phase = .post →
        (statusWord s.phase s.status).extractLsb' 0 2 = 1) ∧
      (s.phase = .done → (statusWord s.phase s.status).extractLsb' 0 2 = 2) ∧
      (s.phase = .error → (statusWord s.phase s.status).extractLsb' 0 2 = 3)) ∧
    ((s.status.err = .noError → (statusWord s.phase s.status).extractLsb' 4 4 = 0) ∧
      (s.status.err = .formatSize → (statusWord s.phase s.status).extractLsb' 4 4 = 1) ∧
      (s.status.err = .formatTag → (statusWord s.phase s.status).extractLsb' 4 4 = 2) ∧
      (s.status.err = .alloc → (statusWord s.phase s.status).extractLsb' 4 4 = 3) ∧
      (s.status.err = .badDistance → (statusWord s.phase s.status).extractLsb' 4 4 = 4)) ∧
    ((statusWord s.phase s.status).extractLsb' 0 2 = s.phase.code ∧
      (statusWord s.phase s.status).extractLsb' 4 4 = s.status.err.code ∧
      (statusWord s.phase s.status).getLsbD 8 = s.status.warnOverrun ∧
      (statusWord s.phase s.status).getLsbD 9 = s.status.warnTrunc ∧
      (statusWord s.phase s.status).getLsbD 10 = s.status.warnTrailing ∧
      (statusWord s.phase s.status).getLsbD 12 = s.status.variantB ∧
      (statusWord s.phase s.status).getLsbD 13 = s.status.variantValid) ∧
    (s.phase.busy = false → hostMove (.writeReg 0x08 .word v) s = .next { s with inLen := v }) ∧
    (s.phase.busy = true → hostMove (.writeReg 0x08 .word v) s = .next s) ∧
    ∀ k, k = 1 ∨ (3 ≤ k ∧ k ≤ 7) → hostMove (.writeReg (4 * k) .word v) s = .next s

/-- The reserved space: the offsets 0x20..0x3C read 0 and ignore writes; the reserved bits of `STATUS`, `DECL_LEN`,
`OUT_LEN` and `CAP_OUT` read 0 and their registers ignore writes; `CTRL` reads 0 and a write to it acts by its bit 0 alone
(R31). -/
def Obligations.ReservedSpaceReadsZero : Prop :=
  ∀ (s : State) (v w : Word) (k : Nat),
    (8 ≤ k → k < 16 →
      hostMove (.readReg (4 * k) .word) s = .next { s with hostData := 0 } ∧
      hostMove (.writeReg (4 * k) .word v) s = .next s) ∧
    ((regRead s 0x04).extractLsb' 2 2 = 0 ∧ (regRead s 0x04).extractLsb' 11 1 = 0 ∧
      (regRead s 0x04).extractLsb' 14 18 = 0 ∧ (regRead s 0x0C).extractLsb' 24 8 = 0 ∧
      (regRead s 0x10).extractLsb' 24 8 = 0 ∧ (regRead s 0x1C).extractLsb' 24 8 = 0 ∧ regRead s 0x00 = 0) ∧
    (k = 1 ∨ k = 3 ∨ k = 4 ∨ k = 7 → hostMove (.writeReg (4 * k) .word v) s = .next s) ∧
    (v.getLsbD 0 = w.getLsbD 0 → hostMove (.writeReg 0x00 .word v) s = hostMove (.writeReg 0x00 .word w) s)

/-- A host read changes nothing of the block: only the host's own value and, where it is a draw, the draw counter, which
are the model's fields (R61; notes/assumptions/7.md, notes/assumptions/9.md). -/
def Obligations.HostReadsChangeNothing : Prop :=
  ∀ (s t : State) (m : HostMove), m.reads = true → hostMove m s = .next t →
    t = { s with hostData := t.hostData, draws := t.draws } ∧
      ((∀ a, m ≠ .readOut a) ∨ s.phase.busy = false → t.draws = s.draws)

/-- The host's memory moves: while not BUSY a write to an address that exists stores its byte and no other; a read returns
the byte, but for a read of `OUT_MEM` while BUSY, of which nothing is said (R262). -/
def Obligations.HostMemoryMoves : Prop :=
  ∀ (s : State) (a : Nat) (b : Byte),
    (a < s.params.maxInLen →
      hostMove (.readIn a) s = .next { s with hostData := (inByte s a).setWidth 32 } ∧
      (s.phase.busy = false → ∃ t, hostMove (.writeIn a b) s = .next t ∧ t = { s with inMem := t.inMem } ∧
        inByte t a = b ∧ ∀ c, c ≠ a → inByte t c = inByte s c)) ∧
    (a < s.params.outCap.toNat →
      (∃ t, hostMove (.readOut a) s = .next t) ∧
      (s.phase.busy = false →
        hostMove (.readOut a) s = .next { s with hostData := (outByte s a).setWidth 32 } ∧
        ∃ t, hostMove (.writeOut a b) s = .next t ∧ t = { s with outMem := t.outMem } ∧
          outByte t a = b ∧ ∀ c, c ≠ a → outByte t c = outByte s c))

/-- The moves the host does not have are refused by name: narrow or misaligned register accesses (R58), accesses outside
the window (R53), memory writes while BUSY (R254). That such a move is a refusal is the model's, notes/assumptions/15.md. -/
def Obligations.MissingHostMovesAreRefused : Prop :=
  ∀ (s : State) (o a : Nat) (w : AccessWidth) (v : Word) (b : Byte),
    (w ≠ .word → hostMove (.readReg o w) s = .refused .narrowAccess ∧
      hostMove (.writeReg o w v) s = .refused .narrowAccess) ∧
    (o % 4 ≠ 0 → hostMove (.readReg o .word) s = .refused .misalignedAccess ∧
      hostMove (.writeReg o .word v) s = .refused .misalignedAccess) ∧
    (o % 4 = 0 → 64 ≤ o → hostMove (.readReg o .word) s = .refused .outsideWindow ∧
      hostMove (.writeReg o .word v) s = .refused .outsideWindow) ∧
    (s.phase.busy = true → hostMove (.writeIn a b) s = .refused .memoryWriteWhileBusy ∧
      hostMove (.writeOut a b) s = .refused .memoryWriteWhileBusy)

/-- Reset, in whatever phase: IDLE, `STATUS`, `IN_LEN`, `DECL_LEN`, `OUT_LEN` and `IN_CONSUMED` 0, `done` 0, the parameters
kept, and then the block waits for START (R250; that a turn of the waiting block is a step that changes nothing is the
model's, notes/assumptions/17.md). -/
def Obligations.ResetReturnsToIdle : Prop :=
  ∀ s : State, ∃ t, hostMove .reset s = .next t ∧
    t.phase = .idle ∧ statusWord t.phase t.status = 0 ∧ t.inLen = 0 ∧ t.declLen = 0 ∧ t.outLen = 0 ∧
    t.inConsumed = 0 ∧ doneSignal t = false ∧ t.params = s.params ∧ blockStep t = .next t

/-- The values the spec gives for reset (R41). -/
def Obligations.ResetValues : Prop :=
  State.reset.phase = .idle ∧ regRead State.reset 0x00 = 0 ∧ regRead State.reset 0x04 = 0 ∧ State.reset.inLen = 0 ∧
  State.reset.declLen = 0 ∧ State.reset.outLen = 0 ∧ State.reset.inConsumed = 0 ∧
  regRead State.reset 0x18 = BitVec.ofNat 32 Config.params.maxInLen ∧
  regRead State.reset 0x1C = Config.params.outCap.setWidth 32 ∧ doneSignal State.reset = false

/-- `done` is a level: 1 exactly when `STATUS.STATE` is DONE or ERROR, 0 after reset, in IDLE and while BUSY, and cleared by
an accepted START (R40). -/
def Obligations.DoneIsALevel : Prop :=
  (∀ s : State,
    (doneSignal s = true ↔ (regRead s 0x04).extractLsb' 0 2 = 2 ∨ (regRead s 0x04).extractLsb' 0 2 = 3) ∧
    (s.phase = .idle ∨ s.phase.busy = true → doneSignal s = false) ∧
    (s.phase.busy = false → doneSignal (requestStart s) = false)) ∧
  doneSignal State.reset = false

/-! ## Whole-machine rules -/

/-- No block step writes `IN_MEM`, `IN_LEN` or the parameters, or touches the host's side; past HDR none changes the
variant; none clears a warning bit (R25, R26, R33, R50, R57, R224). -/
def Obligations.BlockLeavesItsInputs : Prop :=
  ∀ s t : State, blockStep s = .next t →
    (t.inMem = s.inMem ∧ t.inLen = s.inLen ∧ t.params = s.params ∧ t.memEpoch = s.memEpoch ∧ t.draws = s.draws ∧
      t.agenda = s.agenda ∧ t.hostData = s.hostData) ∧
    (s.phase ≠ .hdr → t.variant = s.variant ∧ t.declLen = s.declLen) ∧
    (s.status.warnOverrun = true → t.status.warnOverrun = true) ∧
    (s.status.warnTrunc = true → t.status.warnTrunc = true) ∧
    (s.status.warnTrailing = true → t.status.warnTrailing = true)

/-- The block writes `OUT_MEM` one byte at a time, only at the output cursor, and then advances it by one; a step that
writes no byte leaves the cursor or, in HDR where the header is accepted, sets it to 0 (R51, R106). -/
def Obligations.OutputIsWrittenAtTheCursor : Prop :=
  ∀ s t : State, blockStep s = .next t →
    (t.outMem = s.outMem ∧ (t.outCur = s.outCur ∨ s.phase = .hdr ∧ t.outCur = 0)) ∨
    (s.outCur.toNat < s.params.outCap.toNat ∧ t.outCur = s.outCur + 1 ∧
      ∃ b, t.outMem = s.outMem.write s.outCur.toNat b)

/-- The input cursor only moves forward in TOP, and never past the end of the input; an iteration consumes a byte or ends
the loop, so a stream cannot loop (R127). -/
def Obligations.IterationConsumesOrEnds : Prop :=
  ∀ s t : State, s.phase = .top → s.inCur.toNat ≤ s.inLen.toNat → blockStep s = .next t →
    s.inCur.toNat ≤ t.inCur.toNat ∧ t.inCur.toNat ≤ s.inLen.toNat ∧ (t.phase = .post ∨ s.inCur.toNat < t.inCur.toNat)

/-- In IDLE, DONE and ERROR the block takes no step and holds every register; only a START or a reset of the host leaves
them (R228, R236; a turn of the block there is a step that changes nothing, the model's, notes/assumptions/17.md). -/
def Obligations.OnlyStartOrResetLeavesRest : Prop :=
  ∀ s : State, s.phase.busy = false →
    blockStep s = .next s ∧
    ∀ t, step s = .next t → t.phase ≠ s.phase →
      ∃ m rest, s.agenda = .host m :: rest ∧ (Turn.host m).startsOrResets = true

/-- Nothing but reset disturbs a running decode: any other host move the block allows while BUSY leaves all of it (R229,
R254; the two fields it names are the model's, notes/assumptions/7.md, notes/assumptions/9.md). -/
def Obligations.OnlyResetDisturbsADecode : Prop :=
  ∀ (s t : State) (m : HostMove), s.phase.busy = true → m ≠ .reset → hostMove m s = .next t →
    t = { s with hostData := t.hostData, draws := t.draws }

/-! ## Invariants and headline results -/

/-- Every step of the machine, the host's moves among them, keeps both memories canonical and inside their sizes. The sizes
are R53's; the canonical form, strictly rising addresses of written bytes, is the model's own (DESIGN CHOICE,
notes/assumptions/2.md). -/
def Obligations.StepKeepsMemoriesCanonical : Prop :=
  ∀ s t : State, MemoriesWf s → step s = .next t → MemoriesWf t

/-- The invariant holds at reset, whatever the open parameters are; it says nothing of the registers whose reset values are
the model's, notes/assumptions/3.md. -/
def Obligations.ResetMeetsInvariant : Prop := State.reset.Inv

/-- Every step of the machine, from any state that meets the invariant and on any turn, leads to a state that meets it:
the cursor bounds (R34, R35, R51, R186), the legality of every copy read (R52, R66), the one-hot mask (R37), what `STATUS`
and the result registers show in each phase (R25, R27 to R29, R207, R221, R222). -/
def Obligations.StepKeepsInvariant : Prop :=
  ∀ s t : State, s.Inv → step s = .next t → t.Inv

/-- From every state that meets the invariant the block's turn gives a next state: no fault and no refusal, so a decode
never accesses an address that does not exist (R50 to R52; R259 while BUSY). That such an access would fault is the model's,
notes/assumptions/12.md, and so is the step that changes nothing in IDLE, DONE and ERROR, notes/assumptions/17.md. -/
def Obligations.BlockNeverFaults : Prop :=
  ∀ s : State, s.Inv → blocksTurn s = true → ∃ t, step s = .next t

/-- The warning sets that a decode ending in DONE can show are among {}, {OVERRUN}, {TRUNC}, {TRAILING} and
{OVERRUN, TRAILING}, in the order of the source's list; one ending in ERROR shows none (R207, R227). -/
def Obligations.WarningSetsAreFive : Prop :=
  ∀ s : State, s.Inv →
    (s.phase = .done →
      warningList s.status ∈ [[], [.overrun], [.truncation], [.trailingData], [.overrun, .trailingData]]) ∧
    (s.phase = .error → warningList s.status = [])

/-- What a back-reference produces: after `count` copy steps, byte `k` of the run is byte `k mod dist` of the `dist` bytes
before it, as they were when the copy began; no other byte changes, and TOP is next (R184). -/
def Obligations.CopyRepeatsWithPeriodDist : Prop :=
  ∀ s : State, s.Inv → s.agenda = [] → s.phase = .copy →
    ∃ t, run s.count.toNat s = .next t ∧ t.phase = .top ∧ t.outCur.toNat = s.outCur.toNat + s.count.toNat ∧
      (∀ k, k < s.count.toNat →
        outByte t (s.outCur.toNat + k) = outByte s (s.outCur.toNat - s.dist.toNat + k % s.dist.toNat)) ∧
      ∀ a, a < s.outCur.toNat ∨ s.outCur.toNat + s.count.toNat ≤ a → outByte t a = outByte s a

/-- Every decode ends: from HDR with at least 4 bytes of input, DONE or ERROR is reached within `IN_LEN + DECL_LEN - 1`
steps of the block, and in one step when the header is rejected (R257). -/
def Obligations.DecodeEndsWithinBound : Prop :=
  ∀ s : State, s.Inv → s.agenda = [] → s.phase = .hdr →
    (∃ n t, run n s = .next t ∧ t.phase.finished = true ∧
      (4 ≤ s.inLen.toNat → n ≤ s.inLen.toNat + t.declLen.toNat - 1)) ∧
    ∀ t, run 1 s = .next t → t.phase = .top ∨ t.phase = .error

/-- The same stream always gives the same observation: two blocks with the same parameters, `IN_LEN` and stream bytes, and
whatever else in `OUT_MEM`, in the unspecified registers and past the stream, are in the same phase after any number of
steps, show the same observation there and have the same bytes below `OUT_LEN` (after BAD_DISTANCE no result); so their runs
have the same observation, at the first state in DONE or ERROR (R260, R261). -/
def Obligations.ObservationDependsOnStreamAlone : Prop :=
  ∀ s s' : State,
    s.Inv → s'.Inv → s.agenda = [] → s'.agenda = [] → s.phase = .hdr → s'.phase = .hdr → sameStream s s' →
    (∀ n t t', run n s = .next t → run n s' = .next t' →
      t.phase = t'.phase ∧ observe t = observe t' ∧ outputBytes t = outputBytes t') ∧
    ∀ n, observeRun n s = observeRun n s'

/-- A decode leaves every byte of `OUT_MEM` at or past `OUT_LEN` as it was before START; in particular a header-stage error,
whose `OUT_LEN` is 0, leaves all of it (R67). -/
def Obligations.DecodeLeavesOutputPastOutLen : Prop :=
  ∀ (s t : State) (n : Nat), s.Inv → s.agenda = [] → s.phase = .hdr → run n s = .next t → t.phase.finished = true →
    ∀ a, t.outLen.toNat ≤ a → outByte t a = outByte s a

/-- Well-formed streams decode exactly, and no other stream passes for one: a stream is well formed exactly when its decode
ends in DONE with all of the declared length and no warning, and a decode of any other stream ends in ERROR or shows a
warning (R209). -/
def Obligations.WellFormedStreamsDecodeExactly : Prop :=
  ∀ s : State, s.Inv → s.agenda = [] → s.phase = .hdr →
    (WellFormedStream s ↔
      ∃ n t, run n s = .next t ∧ t.phase = .done ∧ t.outLen = t.declLen ∧ warningList t.status = []) ∧
    ∀ n t, run n s = .next t → t.phase.finished = true → ¬ WellFormedStream s →
      t.phase = .error ∨ warningList t.status ≠ []
end

