-- ==== Sys2Proof/Laws/State.lean ====
section
/-!
SUPPORT. What each named update of the state leaves in each field: one lemma per field and update, so that no later proof
unfolds a record update.
-/
namespace Sys2Proof.Machine

/-! ## `gotoPost`: goto POST -/

@[simp] theorem gotoPost_params (s : State) : (gotoPost s).params = s.params := rfl
@[simp] theorem gotoPost_phase (s : State) : (gotoPost s).phase = .post := rfl
@[simp] theorem gotoPost_status (s : State) : (gotoPost s).status = s.status := rfl
@[simp] theorem gotoPost_inLen (s : State) : (gotoPost s).inLen = s.inLen := rfl
@[simp] theorem gotoPost_declLen (s : State) : (gotoPost s).declLen = s.declLen := rfl
@[simp] theorem gotoPost_outLen (s : State) : (gotoPost s).outLen = s.outLen := rfl
@[simp] theorem gotoPost_inConsumed (s : State) : (gotoPost s).inConsumed = s.inConsumed := rfl
@[simp] theorem gotoPost_variant (s : State) : (gotoPost s).variant = s.variant := rfl
@[simp] theorem gotoPost_inCur (s : State) : (gotoPost s).inCur = s.inCur := rfl
@[simp] theorem gotoPost_outCur (s : State) : (gotoPost s).outCur = s.outCur := rfl
@[simp] theorem gotoPost_flags (s : State) : (gotoPost s).flags = s.flags := rfl
@[simp] theorem gotoPost_mask (s : State) : (gotoPost s).mask = s.mask := rfl
@[simp] theorem gotoPost_length (s : State) : (gotoPost s).length = s.length := rfl
@[simp] theorem gotoPost_dist (s : State) : (gotoPost s).dist = s.dist := rfl
@[simp] theorem gotoPost_count (s : State) : (gotoPost s).count = s.count := rfl
@[simp] theorem gotoPost_inMem (s : State) : (gotoPost s).inMem = s.inMem := rfl
@[simp] theorem gotoPost_outMem (s : State) : (gotoPost s).outMem = s.outMem := rfl
@[simp] theorem gotoPost_memEpoch (s : State) : (gotoPost s).memEpoch = s.memEpoch := rfl
@[simp] theorem gotoPost_draws (s : State) : (gotoPost s).draws = s.draws := rfl
@[simp] theorem gotoPost_agenda (s : State) : (gotoPost s).agenda = s.agenda := rfl
@[simp] theorem gotoPost_hostData (s : State) : (gotoPost s).hostData = s.hostData := rfl

/-! ## `advanceIn`: in_cur advance -/

@[simp] theorem advanceIn_params (n : Nat) (s : State) : (advanceIn n s).params = s.params := rfl
@[simp] theorem advanceIn_phase (n : Nat) (s : State) : (advanceIn n s).phase = s.phase := rfl
@[simp] theorem advanceIn_status (n : Nat) (s : State) : (advanceIn n s).status = s.status := rfl
@[simp] theorem advanceIn_inLen (n : Nat) (s : State) : (advanceIn n s).inLen = s.inLen := rfl
@[simp] theorem advanceIn_declLen (n : Nat) (s : State) : (advanceIn n s).declLen = s.declLen := rfl
@[simp] theorem advanceIn_outLen (n : Nat) (s : State) : (advanceIn n s).outLen = s.outLen := rfl
@[simp] theorem advanceIn_inConsumed (n : Nat) (s : State) : (advanceIn n s).inConsumed = s.inConsumed := rfl
@[simp] theorem advanceIn_variant (n : Nat) (s : State) : (advanceIn n s).variant = s.variant := rfl
@[simp] theorem advanceIn_inCur (n : Nat) (s : State) : (advanceIn n s).inCur = s.inCur + BitVec.ofNat 32 n := rfl
@[simp] theorem advanceIn_outCur (n : Nat) (s : State) : (advanceIn n s).outCur = s.outCur := rfl
@[simp] theorem advanceIn_flags (n : Nat) (s : State) : (advanceIn n s).flags = s.flags := rfl
@[simp] theorem advanceIn_mask (n : Nat) (s : State) : (advanceIn n s).mask = s.mask := rfl
@[simp] theorem advanceIn_length (n : Nat) (s : State) : (advanceIn n s).length = s.length := rfl
@[simp] theorem advanceIn_dist (n : Nat) (s : State) : (advanceIn n s).dist = s.dist := rfl
@[simp] theorem advanceIn_count (n : Nat) (s : State) : (advanceIn n s).count = s.count := rfl
@[simp] theorem advanceIn_inMem (n : Nat) (s : State) : (advanceIn n s).inMem = s.inMem := rfl
@[simp] theorem advanceIn_outMem (n : Nat) (s : State) : (advanceIn n s).outMem = s.outMem := rfl
@[simp] theorem advanceIn_memEpoch (n : Nat) (s : State) : (advanceIn n s).memEpoch = s.memEpoch := rfl
@[simp] theorem advanceIn_draws (n : Nat) (s : State) : (advanceIn n s).draws = s.draws := rfl
@[simp] theorem advanceIn_agenda (n : Nat) (s : State) : (advanceIn n s).agenda = s.agenda := rfl
@[simp] theorem advanceIn_hostData (n : Nat) (s : State) : (advanceIn n s).hostData = s.hostData := rfl

/-! ## `shiftMask`: mask shift -/

@[simp] theorem shiftMask_params (s : State) : (shiftMask s).params = s.params := rfl
@[simp] theorem shiftMask_phase (s : State) : (shiftMask s).phase = s.phase := rfl
@[simp] theorem shiftMask_status (s : State) : (shiftMask s).status = s.status := rfl
@[simp] theorem shiftMask_inLen (s : State) : (shiftMask s).inLen = s.inLen := rfl
@[simp] theorem shiftMask_declLen (s : State) : (shiftMask s).declLen = s.declLen := rfl
@[simp] theorem shiftMask_outLen (s : State) : (shiftMask s).outLen = s.outLen := rfl
@[simp] theorem shiftMask_inConsumed (s : State) : (shiftMask s).inConsumed = s.inConsumed := rfl
@[simp] theorem shiftMask_variant (s : State) : (shiftMask s).variant = s.variant := rfl
@[simp] theorem shiftMask_inCur (s : State) : (shiftMask s).inCur = s.inCur := rfl
@[simp] theorem shiftMask_outCur (s : State) : (shiftMask s).outCur = s.outCur := rfl
@[simp] theorem shiftMask_flags (s : State) : (shiftMask s).flags = s.flags := rfl
@[simp] theorem shiftMask_mask (s : State) : (shiftMask s).mask = s.mask >>> 1 := rfl
@[simp] theorem shiftMask_length (s : State) : (shiftMask s).length = s.length := rfl
@[simp] theorem shiftMask_dist (s : State) : (shiftMask s).dist = s.dist := rfl
@[simp] theorem shiftMask_count (s : State) : (shiftMask s).count = s.count := rfl
@[simp] theorem shiftMask_inMem (s : State) : (shiftMask s).inMem = s.inMem := rfl
@[simp] theorem shiftMask_outMem (s : State) : (shiftMask s).outMem = s.outMem := rfl
@[simp] theorem shiftMask_memEpoch (s : State) : (shiftMask s).memEpoch = s.memEpoch := rfl
@[simp] theorem shiftMask_draws (s : State) : (shiftMask s).draws = s.draws := rfl
@[simp] theorem shiftMask_agenda (s : State) : (shiftMask s).agenda = s.agenda := rfl
@[simp] theorem shiftMask_hostData (s : State) : (shiftMask s).hostData = s.hostData := rfl

/-! ## `loadFlags`: flags fetch -/

@[simp] theorem loadFlags_params (f : Byte) (s : State) : (loadFlags f s).params = s.params := rfl
@[simp] theorem loadFlags_phase (f : Byte) (s : State) : (loadFlags f s).phase = s.phase := rfl
@[simp] theorem loadFlags_status (f : Byte) (s : State) : (loadFlags f s).status = s.status := rfl
@[simp] theorem loadFlags_inLen (f : Byte) (s : State) : (loadFlags f s).inLen = s.inLen := rfl
@[simp] theorem loadFlags_declLen (f : Byte) (s : State) : (loadFlags f s).declLen = s.declLen := rfl
@[simp] theorem loadFlags_outLen (f : Byte) (s : State) : (loadFlags f s).outLen = s.outLen := rfl
@[simp] theorem loadFlags_inConsumed (f : Byte) (s : State) : (loadFlags f s).inConsumed = s.inConsumed := rfl
@[simp] theorem loadFlags_variant (f : Byte) (s : State) : (loadFlags f s).variant = s.variant := rfl
@[simp] theorem loadFlags_inCur (f : Byte) (s : State) : (loadFlags f s).inCur = s.inCur := rfl
@[simp] theorem loadFlags_outCur (f : Byte) (s : State) : (loadFlags f s).outCur = s.outCur := rfl
@[simp] theorem loadFlags_flags (f : Byte) (s : State) : (loadFlags f s).flags = f := rfl
@[simp] theorem loadFlags_mask (f : Byte) (s : State) : (loadFlags f s).mask = firstMask := rfl
@[simp] theorem loadFlags_length (f : Byte) (s : State) : (loadFlags f s).length = s.length := rfl
@[simp] theorem loadFlags_dist (f : Byte) (s : State) : (loadFlags f s).dist = s.dist := rfl
@[simp] theorem loadFlags_count (f : Byte) (s : State) : (loadFlags f s).count = s.count := rfl
@[simp] theorem loadFlags_inMem (f : Byte) (s : State) : (loadFlags f s).inMem = s.inMem := rfl
@[simp] theorem loadFlags_outMem (f : Byte) (s : State) : (loadFlags f s).outMem = s.outMem := rfl
@[simp] theorem loadFlags_memEpoch (f : Byte) (s : State) : (loadFlags f s).memEpoch = s.memEpoch := rfl
@[simp] theorem loadFlags_draws (f : Byte) (s : State) : (loadFlags f s).draws = s.draws := rfl
@[simp] theorem loadFlags_agenda (f : Byte) (s : State) : (loadFlags f s).agenda = s.agenda := rfl
@[simp] theorem loadFlags_hostData (f : Byte) (s : State) : (loadFlags f s).hostData = s.hostData := rfl

/-! ## `putByte`: output byte -/

@[simp] theorem putByte_params (b : Byte) (s : State) : (putByte b s).params = s.params := rfl
@[simp] theorem putByte_phase (b : Byte) (s : State) : (putByte b s).phase = s.phase := rfl
@[simp] theorem putByte_status (b : Byte) (s : State) : (putByte b s).status = s.status := rfl
@[simp] theorem putByte_inLen (b : Byte) (s : State) : (putByte b s).inLen = s.inLen := rfl
@[simp] theorem putByte_declLen (b : Byte) (s : State) : (putByte b s).declLen = s.declLen := rfl
@[simp] theorem putByte_outLen (b : Byte) (s : State) : (putByte b s).outLen = s.outLen := rfl
@[simp] theorem putByte_inConsumed (b : Byte) (s : State) : (putByte b s).inConsumed = s.inConsumed := rfl
@[simp] theorem putByte_variant (b : Byte) (s : State) : (putByte b s).variant = s.variant := rfl
@[simp] theorem putByte_inCur (b : Byte) (s : State) : (putByte b s).inCur = s.inCur := rfl
@[simp] theorem putByte_outCur (b : Byte) (s : State) : (putByte b s).outCur = s.outCur + 1 := rfl
@[simp] theorem putByte_flags (b : Byte) (s : State) : (putByte b s).flags = s.flags := rfl
@[simp] theorem putByte_mask (b : Byte) (s : State) : (putByte b s).mask = s.mask := rfl
@[simp] theorem putByte_length (b : Byte) (s : State) : (putByte b s).length = s.length := rfl
@[simp] theorem putByte_dist (b : Byte) (s : State) : (putByte b s).dist = s.dist := rfl
@[simp] theorem putByte_count (b : Byte) (s : State) : (putByte b s).count = s.count := rfl
@[simp] theorem putByte_inMem (b : Byte) (s : State) : (putByte b s).inMem = s.inMem := rfl
@[simp] theorem putByte_outMem (b : Byte) (s : State) : (putByte b s).outMem = s.outMem.write s.outCur.toNat b := rfl
@[simp] theorem putByte_memEpoch (b : Byte) (s : State) : (putByte b s).memEpoch = s.memEpoch := rfl
@[simp] theorem putByte_draws (b : Byte) (s : State) : (putByte b s).draws = s.draws := rfl
@[simp] theorem putByte_agenda (b : Byte) (s : State) : (putByte b s).agenda = s.agenda := rfl
@[simp] theorem putByte_hostData (b : Byte) (s : State) : (putByte b s).hostData = s.hostData := rfl

/-! ## `raiseFault`: fatal error -/

@[simp] theorem raiseFault_params (c : ErrCode) (s : State) : (raiseFault c s).params = s.params := rfl
@[simp] theorem raiseFault_phase (c : ErrCode) (s : State) : (raiseFault c s).phase = .error := rfl
@[simp] theorem raiseFault_status (c : ErrCode) (s : State) : (raiseFault c s).status = { s.status with err := c } := rfl
@[simp] theorem raiseFault_inLen (c : ErrCode) (s : State) : (raiseFault c s).inLen = s.inLen := rfl
@[simp] theorem raiseFault_declLen (c : ErrCode) (s : State) : (raiseFault c s).declLen = s.declLen := rfl
@[simp] theorem raiseFault_outLen (c : ErrCode) (s : State) : (raiseFault c s).outLen = if c = .badDistance then s.outCur else 0 := rfl
@[simp] theorem raiseFault_inConsumed (c : ErrCode) (s : State) : (raiseFault c s).inConsumed = if c = .badDistance then s.inCur else 0 := rfl
@[simp] theorem raiseFault_variant (c : ErrCode) (s : State) : (raiseFault c s).variant = s.variant := rfl
@[simp] theorem raiseFault_inCur (c : ErrCode) (s : State) : (raiseFault c s).inCur = s.inCur := rfl
@[simp] theorem raiseFault_outCur (c : ErrCode) (s : State) : (raiseFault c s).outCur = s.outCur := rfl
@[simp] theorem raiseFault_flags (c : ErrCode) (s : State) : (raiseFault c s).flags = s.flags := rfl
@[simp] theorem raiseFault_mask (c : ErrCode) (s : State) : (raiseFault c s).mask = s.mask := rfl
@[simp] theorem raiseFault_length (c : ErrCode) (s : State) : (raiseFault c s).length = s.length := rfl
@[simp] theorem raiseFault_dist (c : ErrCode) (s : State) : (raiseFault c s).dist = s.dist := rfl
@[simp] theorem raiseFault_count (c : ErrCode) (s : State) : (raiseFault c s).count = s.count := rfl
@[simp] theorem raiseFault_inMem (c : ErrCode) (s : State) : (raiseFault c s).inMem = s.inMem := rfl
@[simp] theorem raiseFault_outMem (c : ErrCode) (s : State) : (raiseFault c s).outMem = s.outMem := rfl
@[simp] theorem raiseFault_memEpoch (c : ErrCode) (s : State) : (raiseFault c s).memEpoch = s.memEpoch := rfl
@[simp] theorem raiseFault_draws (c : ErrCode) (s : State) : (raiseFault c s).draws = s.draws := rfl
@[simp] theorem raiseFault_agenda (c : ErrCode) (s : State) : (raiseFault c s).agenda = s.agenda := rfl
@[simp] theorem raiseFault_hostData (c : ErrCode) (s : State) : (raiseFault c s).hostData = s.hostData := rfl

/-! ## `start`: START -/

@[simp] theorem start_params (s : State) : (start s).params = s.params := rfl
@[simp] theorem start_phase (s : State) : (start s).phase = .hdr := rfl
@[simp] theorem start_status (s : State) : (start s).status = Status.clear := rfl
@[simp] theorem start_inLen (s : State) : (start s).inLen = s.inLen := rfl
@[simp] theorem start_declLen (s : State) : (start s).declLen = 0 := rfl
@[simp] theorem start_outLen (s : State) : (start s).outLen = 0 := rfl
@[simp] theorem start_inConsumed (s : State) : (start s).inConsumed = 0 := rfl
@[simp] theorem start_variant (s : State) : (start s).variant = s.variant := rfl
@[simp] theorem start_inCur (s : State) : (start s).inCur = s.inCur := rfl
@[simp] theorem start_outCur (s : State) : (start s).outCur = s.outCur := rfl
@[simp] theorem start_flags (s : State) : (start s).flags = s.flags := rfl
@[simp] theorem start_mask (s : State) : (start s).mask = s.mask := rfl
@[simp] theorem start_length (s : State) : (start s).length = s.length := rfl
@[simp] theorem start_dist (s : State) : (start s).dist = s.dist := rfl
@[simp] theorem start_count (s : State) : (start s).count = s.count := rfl
@[simp] theorem start_inMem (s : State) : (start s).inMem = s.inMem := rfl
@[simp] theorem start_outMem (s : State) : (start s).outMem = s.outMem := rfl
@[simp] theorem start_memEpoch (s : State) : (start s).memEpoch = s.memEpoch := rfl
@[simp] theorem start_draws (s : State) : (start s).draws = s.draws := rfl
@[simp] theorem start_agenda (s : State) : (start s).agenda = s.agenda := rfl
@[simp] theorem start_hostData (s : State) : (start s).hostData = s.hostData := rfl

/-! ## `acceptHeader`: tag and declared length -/

@[simp] theorem acceptHeader_params (v : Variant) (n : BitVec 24) (s : State) : (acceptHeader v n s).params = s.params := rfl
@[simp] theorem acceptHeader_phase (v : Variant) (n : BitVec 24) (s : State) : (acceptHeader v n s).phase = s.phase := rfl
@[simp] theorem acceptHeader_status (v : Variant) (n : BitVec 24) (s : State) : (acceptHeader v n s).status = { s.status with variantB := variantBit v, variantValid := true } := rfl
@[simp] theorem acceptHeader_inLen (v : Variant) (n : BitVec 24) (s : State) : (acceptHeader v n s).inLen = s.inLen := rfl
@[simp] theorem acceptHeader_declLen (v : Variant) (n : BitVec 24) (s : State) : (acceptHeader v n s).declLen = n := rfl
@[simp] theorem acceptHeader_outLen (v : Variant) (n : BitVec 24) (s : State) : (acceptHeader v n s).outLen = s.outLen := rfl
@[simp] theorem acceptHeader_inConsumed (v : Variant) (n : BitVec 24) (s : State) : (acceptHeader v n s).inConsumed = s.inConsumed := rfl
@[simp] theorem acceptHeader_variant (v : Variant) (n : BitVec 24) (s : State) : (acceptHeader v n s).variant = v := rfl
@[simp] theorem acceptHeader_inCur (v : Variant) (n : BitVec 24) (s : State) : (acceptHeader v n s).inCur = s.inCur := rfl
@[simp] theorem acceptHeader_outCur (v : Variant) (n : BitVec 24) (s : State) : (acceptHeader v n s).outCur = s.outCur := rfl
@[simp] theorem acceptHeader_flags (v : Variant) (n : BitVec 24) (s : State) : (acceptHeader v n s).flags = s.flags := rfl
@[simp] theorem acceptHeader_mask (v : Variant) (n : BitVec 24) (s : State) : (acceptHeader v n s).mask = s.mask := rfl
@[simp] theorem acceptHeader_length (v : Variant) (n : BitVec 24) (s : State) : (acceptHeader v n s).length = s.length := rfl
@[simp] theorem acceptHeader_dist (v : Variant) (n : BitVec 24) (s : State) : (acceptHeader v n s).dist = s.dist := rfl
@[simp] theorem acceptHeader_count (v : Variant) (n : BitVec 24) (s : State) : (acceptHeader v n s).count = s.count := rfl
@[simp] theorem acceptHeader_inMem (v : Variant) (n : BitVec 24) (s : State) : (acceptHeader v n s).inMem = s.inMem := rfl
@[simp] theorem acceptHeader_outMem (v : Variant) (n : BitVec 24) (s : State) : (acceptHeader v n s).outMem = s.outMem := rfl
@[simp] theorem acceptHeader_memEpoch (v : Variant) (n : BitVec 24) (s : State) : (acceptHeader v n s).memEpoch = s.memEpoch := rfl
@[simp] theorem acceptHeader_draws (v : Variant) (n : BitVec 24) (s : State) : (acceptHeader v n s).draws = s.draws := rfl
@[simp] theorem acceptHeader_agenda (v : Variant) (n : BitVec 24) (s : State) : (acceptHeader v n s).agenda = s.agenda := rfl
@[simp] theorem acceptHeader_hostData (v : Variant) (n : BitVec 24) (s : State) : (acceptHeader v n s).hostData = s.hostData := rfl

/-! ## `initDecode`: decode initialization -/

@[simp] theorem initDecode_params (s : State) : (initDecode s).params = s.params := rfl
@[simp] theorem initDecode_phase (s : State) : (initDecode s).phase = .top := rfl
@[simp] theorem initDecode_status (s : State) : (initDecode s).status = s.status := rfl
@[simp] theorem initDecode_inLen (s : State) : (initDecode s).inLen = s.inLen := rfl
@[simp] theorem initDecode_declLen (s : State) : (initDecode s).declLen = s.declLen := rfl
@[simp] theorem initDecode_outLen (s : State) : (initDecode s).outLen = s.outLen := rfl
@[simp] theorem initDecode_inConsumed (s : State) : (initDecode s).inConsumed = s.inConsumed := rfl
@[simp] theorem initDecode_variant (s : State) : (initDecode s).variant = s.variant := rfl
@[simp] theorem initDecode_inCur (s : State) : (initDecode s).inCur = 4 := rfl
@[simp] theorem initDecode_outCur (s : State) : (initDecode s).outCur = 0 := rfl
@[simp] theorem initDecode_flags (s : State) : (initDecode s).flags = s.flags := rfl
@[simp] theorem initDecode_mask (s : State) : (initDecode s).mask = 0 := rfl
@[simp] theorem initDecode_length (s : State) : (initDecode s).length = s.length := rfl
@[simp] theorem initDecode_dist (s : State) : (initDecode s).dist = s.dist := rfl
@[simp] theorem initDecode_count (s : State) : (initDecode s).count = s.count := rfl
@[simp] theorem initDecode_inMem (s : State) : (initDecode s).inMem = s.inMem := rfl
@[simp] theorem initDecode_outMem (s : State) : (initDecode s).outMem = s.outMem := rfl
@[simp] theorem initDecode_memEpoch (s : State) : (initDecode s).memEpoch = s.memEpoch := rfl
@[simp] theorem initDecode_draws (s : State) : (initDecode s).draws = s.draws := rfl
@[simp] theorem initDecode_agenda (s : State) : (initDecode s).agenda = s.agenda := rfl
@[simp] theorem initDecode_hostData (s : State) : (initDecode s).hostData = s.hostData := rfl

/-! ## `deliver`: parser's result -/

@[simp] theorem deliver_params (l d : Nat) (s : State) : (deliver l d s).params = s.params := rfl
@[simp] theorem deliver_phase (l d : Nat) (s : State) : (deliver l d s).phase = s.phase := rfl
@[simp] theorem deliver_status (l d : Nat) (s : State) : (deliver l d s).status = s.status := rfl
@[simp] theorem deliver_inLen (l d : Nat) (s : State) : (deliver l d s).inLen = s.inLen := rfl
@[simp] theorem deliver_declLen (l d : Nat) (s : State) : (deliver l d s).declLen = s.declLen := rfl
@[simp] theorem deliver_outLen (l d : Nat) (s : State) : (deliver l d s).outLen = s.outLen := rfl
@[simp] theorem deliver_inConsumed (l d : Nat) (s : State) : (deliver l d s).inConsumed = s.inConsumed := rfl
@[simp] theorem deliver_variant (l d : Nat) (s : State) : (deliver l d s).variant = s.variant := rfl
@[simp] theorem deliver_inCur (l d : Nat) (s : State) : (deliver l d s).inCur = s.inCur := rfl
@[simp] theorem deliver_outCur (l d : Nat) (s : State) : (deliver l d s).outCur = s.outCur := rfl
@[simp] theorem deliver_flags (l d : Nat) (s : State) : (deliver l d s).flags = s.flags := rfl
@[simp] theorem deliver_mask (l d : Nat) (s : State) : (deliver l d s).mask = s.mask := rfl
@[simp] theorem deliver_length (l d : Nat) (s : State) : (deliver l d s).length = BitVec.ofNat 17 l := rfl
@[simp] theorem deliver_dist (l d : Nat) (s : State) : (deliver l d s).dist = BitVec.ofNat 13 d := rfl
@[simp] theorem deliver_count (l d : Nat) (s : State) : (deliver l d s).count = s.count := rfl
@[simp] theorem deliver_inMem (l d : Nat) (s : State) : (deliver l d s).inMem = s.inMem := rfl
@[simp] theorem deliver_outMem (l d : Nat) (s : State) : (deliver l d s).outMem = s.outMem := rfl
@[simp] theorem deliver_memEpoch (l d : Nat) (s : State) : (deliver l d s).memEpoch = s.memEpoch := rfl
@[simp] theorem deliver_draws (l d : Nat) (s : State) : (deliver l d s).draws = s.draws := rfl
@[simp] theorem deliver_agenda (l d : Nat) (s : State) : (deliver l d s).agenda = s.agenda := rfl
@[simp] theorem deliver_hostData (l d : Nat) (s : State) : (deliver l d s).hostData = s.hostData := rfl

/-! ## `clampLength`: overrun clamp -/

@[simp] theorem clampLength_params (s : State) : (clampLength s).params = s.params := rfl
@[simp] theorem clampLength_phase (s : State) : (clampLength s).phase = s.phase := rfl
@[simp] theorem clampLength_status (s : State) : (clampLength s).status = { s.status with warnOverrun := true } := rfl
@[simp] theorem clampLength_inLen (s : State) : (clampLength s).inLen = s.inLen := rfl
@[simp] theorem clampLength_declLen (s : State) : (clampLength s).declLen = s.declLen := rfl
@[simp] theorem clampLength_outLen (s : State) : (clampLength s).outLen = s.outLen := rfl
@[simp] theorem clampLength_inConsumed (s : State) : (clampLength s).inConsumed = s.inConsumed := rfl
@[simp] theorem clampLength_variant (s : State) : (clampLength s).variant = s.variant := rfl
@[simp] theorem clampLength_inCur (s : State) : (clampLength s).inCur = s.inCur := rfl
@[simp] theorem clampLength_outCur (s : State) : (clampLength s).outCur = s.outCur := rfl
@[simp] theorem clampLength_flags (s : State) : (clampLength s).flags = s.flags := rfl
@[simp] theorem clampLength_mask (s : State) : (clampLength s).mask = s.mask := rfl
@[simp] theorem clampLength_length (s : State) : (clampLength s).length = BitVec.ofNat 17 (spaceLeft s) := rfl
@[simp] theorem clampLength_dist (s : State) : (clampLength s).dist = s.dist := rfl
@[simp] theorem clampLength_count (s : State) : (clampLength s).count = s.count := rfl
@[simp] theorem clampLength_inMem (s : State) : (clampLength s).inMem = s.inMem := rfl
@[simp] theorem clampLength_outMem (s : State) : (clampLength s).outMem = s.outMem := rfl
@[simp] theorem clampLength_memEpoch (s : State) : (clampLength s).memEpoch = s.memEpoch := rfl
@[simp] theorem clampLength_draws (s : State) : (clampLength s).draws = s.draws := rfl
@[simp] theorem clampLength_agenda (s : State) : (clampLength s).agenda = s.agenda := rfl
@[simp] theorem clampLength_hostData (s : State) : (clampLength s).hostData = s.hostData := rfl

/-! ## `beginCopy`: copy setup -/

@[simp] theorem beginCopy_params (s : State) : (beginCopy s).params = s.params := rfl
@[simp] theorem beginCopy_phase (s : State) : (beginCopy s).phase = .copy := rfl
@[simp] theorem beginCopy_status (s : State) : (beginCopy s).status = s.status := rfl
@[simp] theorem beginCopy_inLen (s : State) : (beginCopy s).inLen = s.inLen := rfl
@[simp] theorem beginCopy_declLen (s : State) : (beginCopy s).declLen = s.declLen := rfl
@[simp] theorem beginCopy_outLen (s : State) : (beginCopy s).outLen = s.outLen := rfl
@[simp] theorem beginCopy_inConsumed (s : State) : (beginCopy s).inConsumed = s.inConsumed := rfl
@[simp] theorem beginCopy_variant (s : State) : (beginCopy s).variant = s.variant := rfl
@[simp] theorem beginCopy_inCur (s : State) : (beginCopy s).inCur = s.inCur := rfl
@[simp] theorem beginCopy_outCur (s : State) : (beginCopy s).outCur = s.outCur := rfl
@[simp] theorem beginCopy_flags (s : State) : (beginCopy s).flags = s.flags := rfl
@[simp] theorem beginCopy_mask (s : State) : (beginCopy s).mask = s.mask := rfl
@[simp] theorem beginCopy_length (s : State) : (beginCopy s).length = s.length := rfl
@[simp] theorem beginCopy_dist (s : State) : (beginCopy s).dist = s.dist := rfl
@[simp] theorem beginCopy_count (s : State) : (beginCopy s).count = s.length := rfl
@[simp] theorem beginCopy_inMem (s : State) : (beginCopy s).inMem = s.inMem := rfl
@[simp] theorem beginCopy_outMem (s : State) : (beginCopy s).outMem = s.outMem := rfl
@[simp] theorem beginCopy_memEpoch (s : State) : (beginCopy s).memEpoch = s.memEpoch := rfl
@[simp] theorem beginCopy_draws (s : State) : (beginCopy s).draws = s.draws := rfl
@[simp] theorem beginCopy_agenda (s : State) : (beginCopy s).agenda = s.agenda := rfl
@[simp] theorem beginCopy_hostData (s : State) : (beginCopy s).hostData = s.hostData := rfl

/-! ## `countDown`: end of a copy step -/

@[simp] theorem countDown_params (s : State) : (countDown s).params = s.params := rfl
@[simp] theorem countDown_phase (s : State) : (countDown s).phase = if s.count - 1 = 0 then .top else .copy := rfl
@[simp] theorem countDown_status (s : State) : (countDown s).status = s.status := rfl
@[simp] theorem countDown_inLen (s : State) : (countDown s).inLen = s.inLen := rfl
@[simp] theorem countDown_declLen (s : State) : (countDown s).declLen = s.declLen := rfl
@[simp] theorem countDown_outLen (s : State) : (countDown s).outLen = s.outLen := rfl
@[simp] theorem countDown_inConsumed (s : State) : (countDown s).inConsumed = s.inConsumed := rfl
@[simp] theorem countDown_variant (s : State) : (countDown s).variant = s.variant := rfl
@[simp] theorem countDown_inCur (s : State) : (countDown s).inCur = s.inCur := rfl
@[simp] theorem countDown_outCur (s : State) : (countDown s).outCur = s.outCur := rfl
@[simp] theorem countDown_flags (s : State) : (countDown s).flags = s.flags := rfl
@[simp] theorem countDown_mask (s : State) : (countDown s).mask = s.mask := rfl
@[simp] theorem countDown_length (s : State) : (countDown s).length = s.length := rfl
@[simp] theorem countDown_dist (s : State) : (countDown s).dist = s.dist := rfl
@[simp] theorem countDown_count (s : State) : (countDown s).count = s.count - 1 := rfl
@[simp] theorem countDown_inMem (s : State) : (countDown s).inMem = s.inMem := rfl
@[simp] theorem countDown_outMem (s : State) : (countDown s).outMem = s.outMem := rfl
@[simp] theorem countDown_memEpoch (s : State) : (countDown s).memEpoch = s.memEpoch := rfl
@[simp] theorem countDown_draws (s : State) : (countDown s).draws = s.draws := rfl
@[simp] theorem countDown_agenda (s : State) : (countDown s).agenda = s.agenda := rfl
@[simp] theorem countDown_hostData (s : State) : (countDown s).hostData = s.hostData := rfl

/-! ## `finish`: completion -/

@[simp] theorem finish_params (s : State) : (finish s).params = s.params := rfl
@[simp] theorem finish_phase (s : State) : (finish s).phase = .done := rfl
@[simp] theorem finish_status (s : State) : (finish s).status = completionWarnings s := rfl
@[simp] theorem finish_inLen (s : State) : (finish s).inLen = s.inLen := rfl
@[simp] theorem finish_declLen (s : State) : (finish s).declLen = s.declLen := rfl
@[simp] theorem finish_outLen (s : State) : (finish s).outLen = s.outCur := rfl
@[simp] theorem finish_inConsumed (s : State) : (finish s).inConsumed = s.inCur := rfl
@[simp] theorem finish_variant (s : State) : (finish s).variant = s.variant := rfl
@[simp] theorem finish_inCur (s : State) : (finish s).inCur = s.inCur := rfl
@[simp] theorem finish_outCur (s : State) : (finish s).outCur = s.outCur := rfl
@[simp] theorem finish_flags (s : State) : (finish s).flags = s.flags := rfl
@[simp] theorem finish_mask (s : State) : (finish s).mask = s.mask := rfl
@[simp] theorem finish_length (s : State) : (finish s).length = s.length := rfl
@[simp] theorem finish_dist (s : State) : (finish s).dist = s.dist := rfl
@[simp] theorem finish_count (s : State) : (finish s).count = s.count := rfl
@[simp] theorem finish_inMem (s : State) : (finish s).inMem = s.inMem := rfl
@[simp] theorem finish_outMem (s : State) : (finish s).outMem = s.outMem := rfl
@[simp] theorem finish_memEpoch (s : State) : (finish s).memEpoch = s.memEpoch := rfl
@[simp] theorem finish_draws (s : State) : (finish s).draws = s.draws := rfl
@[simp] theorem finish_agenda (s : State) : (finish s).agenda = s.agenda := rfl
@[simp] theorem finish_hostData (s : State) : (finish s).hostData = s.hostData := rfl

/-! ## `loadLengthByte`: low length byte -/

@[simp] theorem loadLengthByte_params (b : Byte) (s : State) : (loadLengthByte b s).params = s.params := rfl
@[simp] theorem loadLengthByte_phase (b : Byte) (s : State) : (loadLengthByte b s).phase = s.phase := rfl
@[simp] theorem loadLengthByte_status (b : Byte) (s : State) : (loadLengthByte b s).status = s.status := rfl
@[simp] theorem loadLengthByte_inLen (b : Byte) (s : State) : (loadLengthByte b s).inLen = s.inLen := rfl
@[simp] theorem loadLengthByte_declLen (b : Byte) (s : State) : (loadLengthByte b s).declLen = s.declLen := rfl
@[simp] theorem loadLengthByte_outLen (b : Byte) (s : State) : (loadLengthByte b s).outLen = s.outLen := rfl
@[simp] theorem loadLengthByte_inConsumed (b : Byte) (s : State) : (loadLengthByte b s).inConsumed = s.inConsumed := rfl
@[simp] theorem loadLengthByte_variant (b : Byte) (s : State) : (loadLengthByte b s).variant = s.variant := rfl
@[simp] theorem loadLengthByte_inCur (b : Byte) (s : State) : (loadLengthByte b s).inCur = s.inCur := rfl
@[simp] theorem loadLengthByte_outCur (b : Byte) (s : State) : (loadLengthByte b s).outCur = s.outCur := rfl
@[simp] theorem loadLengthByte_flags (b : Byte) (s : State) : (loadLengthByte b s).flags = s.flags := rfl
@[simp] theorem loadLengthByte_mask (b : Byte) (s : State) : (loadLengthByte b s).mask = s.mask := rfl
@[simp] theorem loadLengthByte_length (b : Byte) (s : State) : (loadLengthByte b s).length = b.setWidth 17 := rfl
@[simp] theorem loadLengthByte_dist (b : Byte) (s : State) : (loadLengthByte b s).dist = s.dist := rfl
@[simp] theorem loadLengthByte_count (b : Byte) (s : State) : (loadLengthByte b s).count = s.count := rfl
@[simp] theorem loadLengthByte_inMem (b : Byte) (s : State) : (loadLengthByte b s).inMem = s.inMem := rfl
@[simp] theorem loadLengthByte_outMem (b : Byte) (s : State) : (loadLengthByte b s).outMem = s.outMem := rfl
@[simp] theorem loadLengthByte_memEpoch (b : Byte) (s : State) : (loadLengthByte b s).memEpoch = s.memEpoch := rfl
@[simp] theorem loadLengthByte_draws (b : Byte) (s : State) : (loadLengthByte b s).draws = s.draws := rfl
@[simp] theorem loadLengthByte_agenda (b : Byte) (s : State) : (loadLengthByte b s).agenda = s.agenda := rfl
@[simp] theorem loadLengthByte_hostData (b : Byte) (s : State) : (loadLengthByte b s).hostData = s.hostData := rfl

/-! ## `assertReset`: the reset input -/

@[simp] theorem assertReset_params (s : State) : (assertReset s).params = s.params := rfl
@[simp] theorem assertReset_phase (s : State) : (assertReset s).phase = State.reset.phase := rfl
@[simp] theorem assertReset_status (s : State) : (assertReset s).status = State.reset.status := rfl
@[simp] theorem assertReset_inLen (s : State) : (assertReset s).inLen = State.reset.inLen := rfl
@[simp] theorem assertReset_declLen (s : State) : (assertReset s).declLen = State.reset.declLen := rfl
@[simp] theorem assertReset_outLen (s : State) : (assertReset s).outLen = State.reset.outLen := rfl
@[simp] theorem assertReset_inConsumed (s : State) : (assertReset s).inConsumed = State.reset.inConsumed := rfl
@[simp] theorem assertReset_variant (s : State) : (assertReset s).variant = State.reset.variant := rfl
@[simp] theorem assertReset_inCur (s : State) : (assertReset s).inCur = State.reset.inCur := rfl
@[simp] theorem assertReset_outCur (s : State) : (assertReset s).outCur = State.reset.outCur := rfl
@[simp] theorem assertReset_flags (s : State) : (assertReset s).flags = State.reset.flags := rfl
@[simp] theorem assertReset_mask (s : State) : (assertReset s).mask = State.reset.mask := rfl
@[simp] theorem assertReset_length (s : State) : (assertReset s).length = State.reset.length := rfl
@[simp] theorem assertReset_dist (s : State) : (assertReset s).dist = State.reset.dist := rfl
@[simp] theorem assertReset_count (s : State) : (assertReset s).count = State.reset.count := rfl
@[simp] theorem assertReset_inMem (s : State) : (assertReset s).inMem = State.reset.inMem := rfl
@[simp] theorem assertReset_outMem (s : State) : (assertReset s).outMem = State.reset.outMem := rfl
@[simp] theorem assertReset_memEpoch (s : State) : (assertReset s).memEpoch = s.memEpoch + 1 := rfl
@[simp] theorem assertReset_draws (s : State) : (assertReset s).draws = s.draws := rfl
@[simp] theorem assertReset_agenda (s : State) : (assertReset s).agenda = s.agenda := rfl
@[simp] theorem assertReset_hostData (s : State) : (assertReset s).hostData = s.hostData := rfl

/-! ## `turnTaken`: the agenda moves on -/

@[simp] theorem turnTaken_params (s : State) : (turnTaken s).params = s.params := rfl
@[simp] theorem turnTaken_phase (s : State) : (turnTaken s).phase = s.phase := rfl
@[simp] theorem turnTaken_status (s : State) : (turnTaken s).status = s.status := rfl
@[simp] theorem turnTaken_inLen (s : State) : (turnTaken s).inLen = s.inLen := rfl
@[simp] theorem turnTaken_declLen (s : State) : (turnTaken s).declLen = s.declLen := rfl
@[simp] theorem turnTaken_outLen (s : State) : (turnTaken s).outLen = s.outLen := rfl
@[simp] theorem turnTaken_inConsumed (s : State) : (turnTaken s).inConsumed = s.inConsumed := rfl
@[simp] theorem turnTaken_variant (s : State) : (turnTaken s).variant = s.variant := rfl
@[simp] theorem turnTaken_inCur (s : State) : (turnTaken s).inCur = s.inCur := rfl
@[simp] theorem turnTaken_outCur (s : State) : (turnTaken s).outCur = s.outCur := rfl
@[simp] theorem turnTaken_flags (s : State) : (turnTaken s).flags = s.flags := rfl
@[simp] theorem turnTaken_mask (s : State) : (turnTaken s).mask = s.mask := rfl
@[simp] theorem turnTaken_length (s : State) : (turnTaken s).length = s.length := rfl
@[simp] theorem turnTaken_dist (s : State) : (turnTaken s).dist = s.dist := rfl
@[simp] theorem turnTaken_count (s : State) : (turnTaken s).count = s.count := rfl
@[simp] theorem turnTaken_inMem (s : State) : (turnTaken s).inMem = s.inMem := rfl
@[simp] theorem turnTaken_outMem (s : State) : (turnTaken s).outMem = s.outMem := rfl
@[simp] theorem turnTaken_memEpoch (s : State) : (turnTaken s).memEpoch = s.memEpoch := rfl
@[simp] theorem turnTaken_draws (s : State) : (turnTaken s).draws = s.draws := rfl
@[simp] theorem turnTaken_agenda (s : State) : (turnTaken s).agenda = s.agenda.tail := rfl
@[simp] theorem turnTaken_hostData (s : State) : (turnTaken s).hostData = s.hostData := rfl

end Sys2Proof.Machine
end

