-- ==== Sys2Proof/Laws/Memory.lean ====
section
/-!
SUPPORT. The laws of the two memories: a read after a write to the same address gives the byte written, a write leaves
every other address alone, and every write keeps the canonical form.
-/
namespace Sys2Proof.Machine

@[simp] theorem lookup_nil (a : Nat) : Memory.lookup [] a = none := rfl

theorem lookup_cons (k : Nat) (v : Byte) (m : Memory) (a : Nat) :
    Memory.lookup ((k, v) :: m) a = if k = a then some v else m.lookup a := rfl

/-- Below every listed address nothing is listed. -/
theorem lookup_of_forall_lt {m : Memory} {a : Nat} (h : ∀ c ∈ m, a < c.1) : m.lookup a = none := by
  induction m with
  | nil => rfl
  | cons c m ih =>
    obtain ⟨k, v⟩ := c
    have hk : a < k := h (k, v) List.mem_cons_self
    rw [lookup_cons, if_neg (by omega)]
    exact ih fun c hc => h c (List.mem_cons_of_mem _ hc)

theorem lookup_write_same (m : Memory) (a : Nat) (v : Byte) : (m.write a v).lookup a = some v := by
  induction m with
  | nil => simp [Memory.write, Memory.lookup]
  | cons c m ih =>
    obtain ⟨k, w⟩ := c
    unfold Memory.write
    split
    · simp [Memory.lookup]
    · split
      · simp [Memory.lookup]
      · rename_i h1 h2
        rw [lookup_cons, if_neg (fun h => h2 h.symm), ih]

theorem lookup_write_ne (m : Memory) {a b : Nat} (v : Byte) (h : b ≠ a) : (m.write a v).lookup b = m.lookup b := by
  induction m with
  | nil => simp [Memory.write, Memory.lookup, Ne.symm h]
  | cons c m ih =>
    obtain ⟨k, w⟩ := c
    unfold Memory.write
    split
    · simp [Memory.lookup, Ne.symm h]
    · split
      · rename_i h1 h2
        subst h2
        simp [Memory.lookup, Ne.symm h]
      · simp [lookup_cons, ih]

/-- An address listed after a write was listed before it or is the address written. -/
theorem mem_write {m : Memory} {a : Nat} {v : Byte} {c : Host.Cell} (h : c ∈ m.write a v) : c = (a, v) ∨ c ∈ m := by
  induction m with
  | nil => simpa [Memory.write] using h
  | cons d m ih =>
    obtain ⟨k, w⟩ := d
    unfold Memory.write at h
    split at h
    · simpa using h
    · split at h
      · simp only [List.mem_cons] at h ⊢
        tauto
      · simp only [List.mem_cons] at h ⊢
        rcases h with h | h
        · exact .inr (.inl h)
        · exact (ih h).imp_right .inr

/-- A write keeps the canonical form. -/
theorem write_wf {m : Memory} (h : m.wf) (a : Nat) (v : Byte) : (m.write a v).wf := by
  induction m with
  | nil => simp [Memory.write, Memory.wf]
  | cons c m ih =>
    obtain ⟨k, w⟩ := c
    obtain ⟨hk, hm⟩ := List.pairwise_cons.mp h
    unfold Memory.write
    split
    · rename_i h1
      refine List.pairwise_cons.mpr ⟨fun d hd => ?_, h⟩
      rcases List.mem_cons.mp hd with rfl | hd
      · exact h1
      · exact Nat.lt_trans h1 (hk d hd)
    · split
      · rename_i h1 h2
        subst h2
        exact List.pairwise_cons.mpr ⟨fun d hd => hk d hd, hm⟩
      · rename_i h1 h2
        refine List.pairwise_cons.mpr ⟨fun d hd => ?_, ih hm⟩
        rcases mem_write hd with rfl | hd
        · show k < a
          omega
        · exact hk d hd

/-- A write inside a bound keeps every listed address inside it. -/
theorem write_bound {m : Memory} {n a : Nat} (h : ∀ c ∈ m, c.1 < n) (ha : a < n) (v : Byte) :
    ∀ c ∈ m.write a v, c.1 < n := fun c hc => by
  rcases mem_write hc with rfl | hc
  · exact ha
  · exact h c hc

/-! ## The bytes of a state -/

/-- `IN_MEM` is read through its list and the epoch alone. -/
theorem inByte_congr {s t : State} (hm : s.inMem = t.inMem) (he : s.memEpoch = t.memEpoch) (a : Nat) :
    inByte s a = inByte t a := by
  simp [inByte, hm, he]

/-- `OUT_MEM` is read through its list and the epoch alone. -/
theorem outByte_congr {s t : State} (hm : s.outMem = t.outMem) (he : s.memEpoch = t.memEpoch) (a : Nat) :
    outByte s a = outByte t a := by
  simp [outByte, hm, he]

/-- The byte just appended reads back. -/
theorem outByte_putByte_same (b : Byte) (s : State) : outByte (putByte b s) s.outCur.toNat = b := by
  simp [outByte, lookup_write_same]

/-- Appending a byte leaves every other byte of `OUT_MEM` alone. -/
theorem outByte_putByte_ne (b : Byte) (s : State) {a : Nat} (h : a ≠ s.outCur.toNat) :
    outByte (putByte b s) a = outByte s a := by
  simp [outByte, lookup_write_ne _ _ h]

@[simp] theorem inByte_putByte (b : Byte) (s : State) (a : Nat) : inByte (putByte b s) a = inByte s a :=
  inByte_congr rfl rfl a

end Sys2Proof.Machine
end

