-- ==== Sys2Proof/Laws/Ops.lean ====
section
/-!
SUPPORT. For each shared operation, once: everything it can answer, and when it completes. The provers cite these and do
not unfold the operations.
-/
namespace Sys2Proof.Machine

/-! ## Which addresses exist -/

theorem worstCaseStream_le (p : Params) : worstCaseStream ≤ p.maxInLen := Nat.le_add_right _ _

/-- `inExists` is `n <= MAX_IN_LEN`. -/
@[simp] theorem inExists_iff (p : Params) (n : Nat) : inExists p n = true ↔ n ≤ p.maxInLen := by
  have := worstCaseStream_le p
  simp only [inExists, Bool.or_eq_true, decide_eq_true_eq]
  omega

/-- `outExists` is `n <= OUT_CAP`. -/
@[simp] theorem outExists_iff (p : Params) (n : Nat) : outExists p n = true ↔ n ≤ p.outCap.toNat := by
  simp [outExists]

/-- The size check of R102. -/
theorem sizeBad_iff (s : State) : sizeBad s = true ↔ s.inLen.toNat < 4 ∨ s.params.maxInLen < s.inLen.toNat := by
  simp only [sizeBad, Bool.or_eq_true, decide_eq_true_eq, Bool.not_eq_true', ← Bool.not_eq_true, inExists_iff]
  omega

/-- The main loop's end test (R120). -/
theorem loopEnds_iff (s : State) :
    loopEnds s = true ↔ s.declLen.toNat ≤ s.outCur.toNat ∨ s.inLen.toNat ≤ s.inCur.toNat := by
  simp [loopEnds]

/-! ## The stream read -/

/-- Everything a read step can do when the meaning answers a next state. -/
theorem readStream_next {n : Nat} {s t : State} {go : State → Out} (h : readStream n s go = .next t) :
    (s.inLen.toNat < s.inCur.toNat + n ∧ t = gotoPost s) ∨
      (s.inCur.toNat + n ≤ s.inLen.toNat ∧ s.inCur.toNat + n ≤ s.params.maxInLen ∧ go (advanceIn n s) = .next t) := by
  unfold readStream at h
  split at h
  · rename_i hs
    exact .inl ⟨hs, (Host.Outcome.next.inj h).symm⟩
  · rename_i hs
    split at h
    · rename_i hm
      exact .inr ⟨by omega, (inExists_iff _ _).mp hm, h⟩
    · cases h

/-- A read step past the end of the input is not made (R50). -/
theorem readStream_short {n : Nat} {s : State} (go : State → Out) (h : s.inLen.toNat < s.inCur.toNat + n) :
    readStream n s go = .next (gotoPost s) := if_pos h

/-- A read step inside the input and inside `IN_MEM` is made. -/
theorem readStream_ok {n : Nat} {s : State} (go : State → Out) (h : s.inCur.toNat + n ≤ s.inLen.toNat)
    (hm : s.inCur.toNat + n ≤ s.params.maxInLen) : readStream n s go = go (advanceIn n s) := by
  rw [readStream, if_neg (by omega), if_pos ((inExists_iff _ _).mpr hm)]

/-- The input cursor after a read step inside the input: no wrap. -/
theorem advanceIn_inCur_toNat {n : Nat} {s : State} (h : s.inCur.toNat + n ≤ s.inLen.toNat) :
    (advanceIn n s).inCur.toNat = s.inCur.toNat + n := by
  have := s.inLen.isLt
  rw [advanceIn_inCur, BitVec.toNat_add, BitVec.toNat_ofNat, Nat.mod_eq_of_lt (a := n) (by omega),
    Nat.mod_eq_of_lt (by omega)]

/-- Two read steps in a row advance the cursor by their sum. -/
theorem advanceIn_advanceIn (m n : Nat) (s : State) : advanceIn m (advanceIn n s) = advanceIn (n + m) s := by
  simp only [advanceIn, BitVec.add_assoc, BitVec.ofNat_add]

/-! ## The output write -/

/-- Everything an output write can do when the meaning answers a next state. -/
theorem writeOut_next {b : Byte} {s t : State} {go : State → Out} (h : writeOut b s go = .next t) :
    s.outCur.toNat < s.params.outCap.toNat ∧ go (putByte b s) = .next t := by
  unfold writeOut at h
  split at h
  · rename_i hm
    exact ⟨(outExists_iff _ _).mp hm, h⟩
  · cases h

/-- An output write inside `OUT_MEM` is made. -/
theorem writeOut_ok {b : Byte} {s : State} (go : State → Out) (h : s.outCur.toNat < s.params.outCap.toNat) :
    writeOut b s go = go (putByte b s) := if_pos ((outExists_iff _ _).mpr h)

/-! ## The header -/

/-- Everything a header row can do (R102 to R106). -/
theorem runHeader_cases (v : Variant) (n : BitVec 24) (s : State) :
    (sizeBad s = true ∧ runHeader v n s = .next (raiseFault .formatSize s)) ∨
      (sizeBad s = false ∧ s.params.outCap.toNat < n.toNat ∧
        runHeader v n s = .next (raiseFault .alloc (acceptHeader v n s))) ∨
      (sizeBad s = false ∧ n.toNat ≤ s.params.outCap.toNat ∧
        runHeader v n s = .next (initDecode (acceptHeader v n s))) := by
  unfold runHeader
  split
  · rename_i h
    exact .inl ⟨h, rfl⟩
  · rename_i h
    have h := Bool.eq_false_iff.mpr h
    split
    · rename_i hc
      exact .inr (.inl ⟨h, hc, rfl⟩)
    · rename_i hc
      exact .inr (.inr ⟨h, by omega, rfl⟩)

/-! ## The copy engine -/

/-- Everything a parsed back-reference can do in its TOP step (R180 to R182). -/
theorem runRef_cases (l d : Nat) (s : State) :
    ((d = 0 ∨ s.outCur.toNat < d) ∧ runRef l d s = .next (raiseFault .badDistance (deliver l d s))) ∨
      (d ≠ 0 ∧ d ≤ s.outCur.toNat ∧ spaceLeft s < l ∧
        runRef l d s = .next (beginCopy (clampLength (deliver l d s)))) ∨
      (d ≠ 0 ∧ d ≤ s.outCur.toNat ∧ l ≤ spaceLeft s ∧ runRef l d s = .next (beginCopy (deliver l d s))) := by
  unfold runRef
  split
  · rename_i h
    exact .inl ⟨h, rfl⟩
  · rename_i h
    rw [not_or, Nat.not_lt] at h
    split
    · rename_i hc
      exact .inr (.inl ⟨h.1, h.2, hc, rfl⟩)
    · rename_i hc
      exact .inr (.inr ⟨h.1, h.2, by omega, rfl⟩)

/-- Everything a copy step can do when it answers a next state (R183). -/
theorem copyStep_next {s t : State} (h : copyStep s = .next t) :
    s.dist.toNat ≤ s.outCur.toNat ∧ s.outCur.toNat < s.params.outCap.toNat ∧
      t = countDown (putByte (outByte s (s.outCur.toNat - s.dist.toNat)) s) := by
  unfold copyStep at h
  split at h
  · cases h
  · split at h
    · obtain ⟨hc, h⟩ := writeOut_next h
      exact ⟨by omega, hc, (Host.Outcome.next.inj h).symm⟩
    · cases h

/-- A copy step whose addresses exist is made. -/
theorem copyStep_ok {s : State} (hd : s.dist.toNat ≤ s.outCur.toNat) (hr : 1 ≤ s.dist.toNat)
    (hc : s.outCur.toNat < s.params.outCap.toNat) :
    copyStep s = .next (countDown (putByte (outByte s (s.outCur.toNat - s.dist.toNat)) s)) := by
  rw [copyStep, if_neg (by omega), if_pos ((outExists_iff _ _).mpr (by omega)), writeOut_ok _ hc]

/-- What phase a copy step leaves: TOP exactly when nothing is left to copy (R183). -/
theorem countDown_phase_cases (s : State) :
    (s.count - 1 = 0 ∧ (countDown s).phase = .top) ∨ (s.count - 1 ≠ 0 ∧ (countDown s).phase = .copy) := by
  by_cases h : s.count - 1 = 0
  · exact .inl ⟨h, if_pos h⟩
  · exact .inr ⟨h, if_neg h⟩

/-! ## The padding skip -/

/-- Everything a padding skip can do when it answers a next state (R201 to R206). -/
theorem skipPadding_next {n : Nat} {s t : State} (h : skipPadding n s = .next t) : t = finish (advanceIn n s) := by
  unfold skipPadding at h
  split at h
  · exact (Host.Outcome.next.inj h).symm
  · cases h

/-- A padding skip of a stream inside `IN_MEM` is made. -/
theorem skipPadding_ok (n : Nat) {s : State} (h : s.inLen.toNat ≤ s.params.maxInLen) :
    skipPadding n s = .next (finish (advanceIn n s)) := by
  rw [skipPadding, if_pos]
  rw [inExists_iff]
  omega

/-! ## Whose step it is -/

/-- With no agenda the step is the block's. -/
theorem step_of_agenda_nil {s : State} (h : s.agenda = []) : step s = blockStep s := by
  unfold step
  rw [h]

/-- A block turn is the block's step in the state with the turn taken. -/
theorem step_of_block_turn {s : State} {r : List Turn} (h : s.agenda = .block :: r) :
    step s = blockStep (turnTaken s) := by
  unfold step turnTaken
  rw [h]
  rfl

/-- A host turn is the host's move in the state with the turn taken. -/
theorem step_of_host_turn {s : State} {m : HostMove} {r : List Turn} (h : s.agenda = .host m :: r) :
    step s = hostMove m (turnTaken s) := by
  unfold step turnTaken
  rw [h]
  rfl

/-- `Config.params` is a conforming choice, whatever the free values are. -/
theorem config_params_legal : Config.params.Legal := by
  refine ⟨?_, ?_, ?_, ?_⟩
  · show Config.tags.1 ≠ Config.tags.2
    unfold Config.tags
    split
    · rename_i h
      exact h.1
    · decide
  · show Config.tags.1 ≠ 0x99
    unfold Config.tags
    split
    · rename_i h
      exact h.2.1
    · decide
  · show Config.tags.2 ≠ 0x99
    unfold Config.tags
    split
    · rename_i h
      exact h.2.2
    · decide
  · show worstCaseStream + Config.freeInExtra % (2 ^ 32 - 4 - worstCaseStream + 1) ≤ 2 ^ 32 - 4
    have := Nat.mod_lt Config.freeInExtra (show 0 < 2 ^ 32 - 4 - worstCaseStream + 1 by decide)
    unfold worstCaseStream at *
    omega

end Sys2Proof.Machine
end

