-- ==== Sys2Proof/Laws/PerInstr.lean ====
section
/-!
SUPPORT. A statement about every instruction as syntax: the encoder emits as many bytes as the opcode table gives the row
(spec/30_encoding.md R73, R81).
-/
namespace Sys2Proof.Laws.EncodedLength

/-- The encoding of an instruction has its row's number of bytes, whatever the tags are. -/
def Statement (i : Instr) : Prop := ∀ p : Params, (encode p i).length = i.byteCount

theorem hdrA (n : BitVec 24) : Statement (.hdrA n) := fun _ => rfl

theorem hdrB (n : BitVec 24) : Statement (.hdrB n) := fun _ => rfl

theorem flagsA (raw : Byte) : Statement (.flagsA raw) := fun _ => rfl

theorem flagsB (raw : Byte) : Statement (.flagsB raw) := fun _ => rfl

theorem lit (b : Byte) : Statement (.lit b) := fun _ => rfl

theorem refaS (t : BitVec 4) (d : BitVec 12) : Statement (.refaS t d) := fun _ => rfl

theorem refaM (l : BitVec 8) (d : BitVec 12) : Statement (.refaM l d) := fun _ => rfl

theorem refaL (l : BitVec 16) (d : BitVec 12) : Statement (.refaL l d) := fun _ => rfl

theorem refbS (t : BitVec 4) (d : BitVec 12) : Statement (.refbS t d) := fun _ => rfl

theorem refbM (l : BitVec 8) (d : BitVec 12) : Statement (.refbM l d) := fun _ => rfl

theorem refbL (l : BitVec 16) (d : BitVec 12) : Statement (.refbL l d) := fun _ => rfl

theorem padb2 (y x : Byte) : Statement (.padb2 y x) := fun _ => rfl

theorem padb3 (x1 x2 : Byte) : Statement (.padb3 x1 x2) := fun _ => rfl

end Sys2Proof.Laws.EncodedLength
end

