-- ==== Sys2Proof/Laws/Rows.lean ====
section
/-!
SUPPORT. What each row and each phase can do, said once: the inversions that frames and invariants are derived from.
-/
namespace Sys2Proof.Machine

/-! ## The rows over the shared operations -/

theorem exec_lit (b : Byte) (s : State) :
    exec (.lit b) s = readStream 1 s fun t => writeOut b t fun u => .next { u with phase := .top } := rfl

theorem exec_refaS (t : BitVec 4) (d : BitVec 12) (s : State) :
    exec (.refaS t d) s = readStream 2 s fun s => runRef (lengthAS t) (distA d) s := rfl

theorem exec_refaM (l : BitVec 8) (d : BitVec 12) (s : State) :
    exec (.refaM l d) s = readStream 2 s fun s => readStream 1 s fun s => runRef (lengthAM l) (distA d) s := rfl

theorem exec_refaL (l : BitVec 16) (d : BitVec 12) (s : State) :
    exec (.refaL l d) s =
      readStream 2 s fun s => readStream 1 s fun s => readStream 1 s fun s => runRef (lengthAL l) (distA d) s := rfl

theorem exec_refbS (t : BitVec 4) (d : BitVec 12) (s : State) :
    exec (.refbS t d) s = readStream 2 s fun s => runRef (lengthBS t) (distB d) s := rfl

theorem exec_refbM (l : BitVec 8) (d : BitVec 12) (s : State) :
    exec (.refbM l d) s = readStream 2 s fun s => readStream 1 s fun s => runRef (lengthBM l) (distB d) s := rfl

theorem exec_refbL (l : BitVec 16) (d : BitVec 12) (s : State) :
    exec (.refbL l d) s =
      readStream 2 s fun s => readStream 1 s fun s =>
        readStream 1 (loadLengthByte (l.extractLsb' 0 8) s) fun s => runRef (lengthBL l) (distB d) s := rfl

/-! ## Back-reference rows as one -/

/-- The register `length` has no part in what becomes of a parsed back-reference: the parser writes it first. -/
theorem runRef_loadLengthByte (l d : Nat) (b : Byte) (s : State) : runRef l d (loadLengthByte b s) = runRef l d s := rfl

/-- A back-reference row with all its bytes left parses them and runs its `(length, dist)`. -/
theorem exec_ref_of_bytesLeft {i : Instr} {l d : Nat} {s : State} (hi : refOperands i = some (l, d))
    (h : bytesLeft i.byteCount s) : exec i s = runRef l d (advanceIn i.byteCount s) := by
  obtain ⟨hl, hm⟩ := h
  cases i <;> simp only [refOperands, reduceCtorEq, Option.some.injEq, Prod.mk.injEq] at hi <;>
    obtain ⟨rfl, rfl⟩ := hi <;> simp only [Instr.byteCount] at hl ⊢
  case refaS => exact readStream_ok _ hl (by omega)
  case refbS => exact readStream_ok _ hl (by omega)
  all_goals have h2 := advanceIn_inCur_toNat (n := 2) (s := s) (by omega)
  case refaM =>
    rw [exec_refaM, readStream_ok _ (by omega) (by omega), readStream_ok _ (by simp only [advanceIn_inLen]; omega)
      (by simp only [advanceIn_params]; omega), advanceIn_advanceIn]
  case refbM =>
    rw [exec_refbM, readStream_ok _ (by omega) (by omega), readStream_ok _ (by simp only [advanceIn_inLen]; omega)
      (by simp only [advanceIn_params]; omega), advanceIn_advanceIn]
  all_goals
    have h3 := advanceIn_inCur_toNat (n := 1) (s := advanceIn 2 s) (by simp only [advanceIn_inLen]; omega)
  case refaL =>
    rw [exec_refaL, readStream_ok _ (by omega) (by omega), readStream_ok _ (by simp only [advanceIn_inLen]; omega)
      (by simp only [advanceIn_params]; omega), readStream_ok _ (by simp only [advanceIn_inLen]; omega)
      (by simp only [advanceIn_params]; omega), advanceIn_advanceIn, advanceIn_advanceIn]
  case refbL m e =>
    rw [exec_refbL, readStream_ok _ (by omega) (by omega), readStream_ok _ (by simp only [advanceIn_inLen]; omega)
      (by simp only [advanceIn_params]; omega),
      readStream_ok _ (by simp only [loadLengthByte_inLen, loadLengthByte_inCur, advanceIn_inLen]; omega)
      (by simp only [loadLengthByte_params, loadLengthByte_inCur, advanceIn_params]; omega)]
    show runRef _ _ (loadLengthByte _ (advanceIn 1 (advanceIn 1 (advanceIn 2 s)))) = _
    rw [runRef_loadLengthByte, advanceIn_advanceIn, advanceIn_advanceIn]

/-- Everything a back-reference row can do when it answers a next state: its token is cut short after `k` of its bytes,
with at most the low length byte loaded, or all its bytes are there and its `(length, dist)` runs. -/
theorem exec_ref_next {i : Instr} {l d : Nat} {s t : State} (hi : refOperands i = some (l, d)) (h : exec i s = .next t) :
    (∃ k n, (k = 0 ∧ s.inLen.toNat < s.inCur.toNat + 2 ∨
          2 ≤ k ∧ k < i.byteCount ∧ s.inCur.toNat + k = s.inLen.toNat) ∧
        s.inCur.toNat + k ≤ s.inCur.toNat ⊔ s.inLen.toNat ∧
        t = gotoPost { advanceIn k s with length := n }) ∨
      (s.inCur.toNat + i.byteCount ≤ s.inLen.toNat ∧ runRef l d (advanceIn i.byteCount s) = .next t) := by
  have short0 : ∀ {u : State}, s.inLen.toNat < s.inCur.toNat + 2 → u = gotoPost s →
      ∃ k n, (k = 0 ∧ s.inLen.toNat < s.inCur.toNat + 2 ∨
          2 ≤ k ∧ k < i.byteCount ∧ s.inCur.toNat + k = s.inLen.toNat) ∧
        s.inCur.toNat + k ≤ s.inCur.toNat ⊔ s.inLen.toNat ∧ u = gotoPost { advanceIn k s with length := n } := by
    intro u hs hu
    refine ⟨0, s.length, .inl ⟨rfl, hs⟩, by omega, ?_⟩
    subst hu
    simp [gotoPost, advanceIn]
  cases i <;> simp only [refOperands, reduceCtorEq, Option.some.injEq, Prod.mk.injEq] at hi <;>
    obtain ⟨rfl, rfl⟩ := hi <;> simp only [Instr.byteCount] at short0 ⊢ <;>
    simp only [exec_refaS, exec_refaM, exec_refaL, exec_refbS, exec_refbM, exec_refbL] at h
  all_goals
    rcases readStream_next h with ⟨hs, rfl⟩ | ⟨h2, hm2, h⟩
    · exact .inl (short0 hs rfl)
  case refaS => exact .inr ⟨h2, h⟩
  case refbS => exact .inr ⟨h2, h⟩
  all_goals
    have c2 := advanceIn_inCur_toNat h2
    rcases readStream_next h with ⟨hs, rfl⟩ | ⟨h3, hm3, h⟩
    · rw [advanceIn_inLen, c2] at hs
      exact .inl ⟨2, s.length, .inr ⟨by omega, by omega, by omega⟩, by omega, rfl⟩
    rw [advanceIn_inLen, c2] at h3
  case refaM => exact .inr ⟨h3, by rwa [advanceIn_advanceIn] at h⟩
  case refbM => exact .inr ⟨h3, by rwa [advanceIn_advanceIn] at h⟩
  all_goals
    have c3 := advanceIn_inCur_toNat (n := 3) (s := s) h3
    rw [advanceIn_advanceIn] at h
    rcases readStream_next h with ⟨hs, rfl⟩ | ⟨h4, hm4, h⟩
  · rw [advanceIn_inLen, c3] at hs
    exact .inl ⟨3, s.length, .inr ⟨by omega, by omega, by omega⟩, by omega, rfl⟩
  · rw [advanceIn_inLen, c3] at h4
    exact .inr ⟨h4, by rwa [advanceIn_advanceIn] at h⟩
  · rw [loadLengthByte_inLen, loadLengthByte_inCur, advanceIn_inLen, c3] at hs
    exact .inl ⟨3, _, .inr ⟨by omega, by omega, by omega⟩, by omega, rfl⟩
  · rw [loadLengthByte_inLen, loadLengthByte_inCur, advanceIn_inLen, c3] at h4
    refine .inr ⟨h4, ?_⟩
    rw [← advanceIn_advanceIn 1 3, ← h]
    exact (runRef_loadLengthByte _ _ _ _).symm

/-! ## The other rows -/

/-- Everything LIT can do when it answers a next state (R124, R125). -/
theorem exec_lit_next {b : Byte} {s t : State} (h : exec (.lit b) s = .next t) :
    (s.inLen.toNat < s.inCur.toNat + 1 ∧ t = gotoPost s) ∨
      (s.inCur.toNat + 1 ≤ s.inLen.toNat ∧ s.outCur.toNat < s.params.outCap.toNat ∧
        t = { putByte b (advanceIn 1 s) with phase := .top }) := by
  rw [exec_lit] at h
  rcases readStream_next h with ⟨hs, rfl⟩ | ⟨h1, -, h⟩
  · exact .inl ⟨hs, rfl⟩
  · obtain ⟨hc, h⟩ := writeOut_next h
    exact .inr ⟨h1, hc, (Host.Outcome.next.inj h).symm⟩

/-- The flags row of a variant, whichever it is, as one equation (R121, R122). -/
theorem exec_decodeFlags (v : Variant) (b : Byte) (s : State) :
    exec (decodeFlags v b) s = readStream 1 s fun t => .next (loadFlags (effectiveFlags v b) t) := by
  cases v <;> rfl

/-- Everything a flags row can do when it answers a next state. -/
theorem exec_flags_next {v : Variant} {b : Byte} {s t : State} (h : exec (decodeFlags v b) s = .next t) :
    (s.inLen.toNat < s.inCur.toNat + 1 ∧ t = gotoPost s) ∨
      (s.inCur.toNat + 1 ≤ s.inLen.toNat ∧ t = loadFlags (effectiveFlags v b) (advanceIn 1 s)) := by
  rw [exec_decodeFlags] at h
  rcases readStream_next h with ⟨hs, rfl⟩ | ⟨h1, -, h⟩
  · exact .inl ⟨hs, rfl⟩
  · exact .inr ⟨h1, (Host.Outcome.next.inj h).symm⟩

/-- The trailer row that the bytes select skips 3 bytes at the sentinel and 2 otherwise (R201). -/
theorem exec_decodeTrailer (y x1 x2 : Byte) (s : State) :
    exec (decodeTrailer y x1 x2) s = skipPadding (if y = 0x80 then 3 else 2) s := by
  unfold decodeTrailer
  split <;> rfl

/-- A back-reference token has operands, whatever its bytes. -/
theorem decodeRef_operands (v : Variant) (b0 b1 b2 b3 : Byte) :
    ∃ l d, refOperands (decodeRef v b0 b1 b2 b3) = some (l, d) ∧ d ≤ 4096 ∧ l ≤ 65808 ∧ 1 ≤ l := by
  have nib : ∀ x : BitVec 4, x ≠ 0 → x ≠ 1 → 2 ≤ x.toNat := by decide
  cases v
  · show ∃ l d, refOperands (decodeRefA b0 b1 b2 b3) = some (l, d) ∧ _
    unfold decodeRefA
    split
    · exact ⟨_, _, rfl, by unfold distA; omega, by unfold lengthAM baseM; omega, by unfold lengthAM; omega⟩
    · split
      · exact ⟨_, _, rfl, by unfold distA; omega, by unfold lengthAL baseL; omega, by unfold lengthAL; omega⟩
      · exact ⟨_, _, rfl, by unfold distA; omega, by unfold lengthAS baseS; omega, by unfold lengthAS; omega⟩
  · show ∃ l d, refOperands (decodeRefB b0 b1 b2 b3) = some (l, d) ∧ _
    unfold decodeRefB
    split
    · exact ⟨_, _, rfl, by unfold distB; omega, by unfold lengthBM baseM; omega, by unfold lengthBM baseM; omega⟩
    · split
      · exact ⟨_, _, rfl, by unfold distB; omega, by unfold lengthBL baseL; omega, by unfold lengthBL baseL; omega⟩
      · rename_i h0 h1
        have := nib _ h0 h1
        exact ⟨_, _, rfl, by unfold distB; omega, by unfold lengthBS baseS; omega, by unfold lengthBS; omega⟩

/-! ## The phases -/

/-- Everything the token of an iteration can be: a literal or a back-reference with operands, in the state whose mask is
shifted (R123 to R126). -/
theorem tokenStep_cases (s : State) :
    (∃ b, tokenStep s = exec (.lit b) (shiftMask s)) ∨
      (∃ i l d, refOperands i = some (l, d) ∧ d ≤ 4096 ∧ l ≤ 65808 ∧ 1 ≤ l ∧ 2 ≤ i.byteCount ∧
        tokenStep s = exec i (shiftMask s)) := by
  unfold tokenStep fetchToken decodeToken
  split
  · obtain ⟨l, d, h, hd, hl, h1⟩ := decodeRef_operands (shiftMask s).variant
      (streamByte (shiftMask s) (shiftMask s).inCur.toNat 0) (streamByte (shiftMask s) (shiftMask s).inCur.toNat 1)
      (streamByte (shiftMask s) (shiftMask s).inCur.toNat 2) (streamByte (shiftMask s) (shiftMask s).inCur.toNat 3)
    refine .inr ⟨_, l, d, h, hd, hl, h1, ?_, rfl⟩
    revert h
    generalize decodeRef _ _ _ _ _ = i
    cases i <;> simp [refOperands, Instr.byteCount]
  · exact .inl ⟨_, rfl⟩

/-- Everything one main-loop iteration can do when it answers a next state: the loop ends, or the token runs, in the same
state or in the one the flags fetch leaves (R120 to R126). -/
theorem topStep_next {s t : State} (h : topStep s = .next t) :
    ((s.declLen.toNat ≤ s.outCur.toNat ∨ s.inLen.toNat ≤ s.inCur.toNat) ∧ t = gotoPost s) ∨
      (s.outCur.toNat < s.declLen.toNat ∧ s.inCur.toNat < s.inLen.toNat ∧
        (s.mask ≠ 0 ∧ tokenStep s = .next t ∨
          s.mask = 0 ∧ ∃ f, tokenStep (loadFlags f (advanceIn 1 s)) = .next t)) := by
  unfold topStep at h
  split at h
  · rename_i he
    exact .inl ⟨(loopEnds_iff s).mp he, (Host.Outcome.next.inj h).symm⟩
  · rename_i he
    rw [loopEnds_iff, not_or, Nat.not_le, Nat.not_le] at he
    refine .inr ⟨he.1, he.2, ?_⟩
    split at h
    · rename_i hm
      refine .inr ⟨hm, ?_⟩
      unfold flagsStep fetchFlags at h
      split at h
      · rename_i u hu
        rcases exec_flags_next hu with ⟨hs, -⟩ | ⟨-, rfl⟩
        · omega
        · exact ⟨_, h⟩
      · cases h
      · cases h
    · rename_i hm
      exact .inl ⟨hm, h⟩

/-- Everything the HDR step can do (R102 to R106). -/
theorem hdrStep_cases (s : State) :
    (sizeBad s = true ∧ hdrStep s = .next (raiseFault .formatSize s)) ∨
      (sizeBad s = false ∧ hdrStep s = .next (raiseFault .formatTag s)) ∨
      (∃ v n, sizeBad s = false ∧ s.params.outCap.toNat < n.toNat ∧
        hdrStep s = .next (raiseFault .alloc (acceptHeader v n s))) ∨
      (∃ v n, sizeBad s = false ∧ n.toNat ≤ s.params.outCap.toNat ∧
        hdrStep s = .next (initDecode (acceptHeader v n s))) := by
  unfold hdrStep
  split
  · rename_i h
    exact .inl ⟨h, rfl⟩
  · rename_i h
    have h := Bool.eq_false_iff.mpr h
    have row : ∀ i, fetchHeader s = some i → ∃ v n, exec i s = runHeader v n s := by
      intro i hi
      unfold fetchHeader decodeHeader at hi
      split at hi
      · exact ⟨.A, _, by rw [← Option.some.inj hi]; rfl⟩
      · split at hi
        · exact ⟨.B, _, by rw [← Option.some.inj hi]; rfl⟩
        · cases hi
    split
    · rename_i i hi
      obtain ⟨v, n, hr⟩ := row i hi
      rw [hr]
      rcases runHeader_cases v n s with ⟨hb, -⟩ | ⟨-, hc, hr⟩ | ⟨-, hc, hr⟩
      · simp [h] at hb
      · exact .inr (.inr (.inl ⟨v, n, h, hc, hr⟩))
      · exact .inr (.inr (.inr ⟨v, n, h, hc, hr⟩))
    · exact .inr (.inl ⟨h, rfl⟩)

/-- Everything the POST step can do when it answers a next state: completion after a skip of nothing, 2 or 3 (R201). -/
theorem postStep_next {s t : State} (h : postStep s = .next t) :
    ∃ n, n ≤ 3 ∧ t = finish (advanceIn n s) := by
  unfold postStep at h
  split at h
  · exact ⟨0, by omega, by rw [← Host.Outcome.next.inj h]; simp [advanceIn]⟩
  · unfold fetchTrailer at h
    rw [exec_decodeTrailer] at h
    refine ⟨_, ?_, skipPadding_next h⟩
    split <;> omega

end Sys2Proof.Machine
end

