-- ==== Sys2Proof/Laws/Run.lean ====
section
/-!
SUPPORT. Runs of many steps, one step at a time: what statements over `run` are proved with.
-/
namespace Sys2Proof.Machine

/-- A run of no steps stays. -/
theorem run_zero (s : State) : run 0 s = .next s := rfl

/-- The first step of any host machine's run. -/
theorem core_run_succ_of_next {M : Host.Core} {s t : M.State} (h : M.step s = .next t) (n : Nat) :
    M.run (n + 1) s = M.run n t := by
  rw [Host.Core.run, h]

/-- A run that ends in a next state takes its first step to one. -/
theorem core_run_succ_inv {M : Host.Core} {n : Nat} {s u : M.State} (h : M.run (n + 1) s = .next u) :
    ∃ t, M.step s = .next t ∧ M.run n t = .next u := by
  rw [Host.Core.run] at h
  cases hs : M.step s with
  | next t => rw [hs] at h; exact ⟨t, rfl, h⟩
  | fault e => rw [hs] at h; cases h
  | refused e => rw [hs] at h; cases h

/-- The first step of a run. -/
theorem run_succ_of_next {s t : State} (h : step s = .next t) (n : Nat) : run (n + 1) s = run n t :=
  core_run_succ_of_next (M := Sys2Proof.core) h n

/-- A run that ends in a next state takes its first step to one. -/
theorem run_succ_inv {n : Nat} {s u : State} (h : run (n + 1) s = .next u) : ∃ t, step s = .next t ∧ run n t = .next u :=
  core_run_succ_inv (M := Sys2Proof.core) h

/-- Runs compose. -/
theorem run_add {m : Nat} {s t : State} (h : run m s = .next t) (n : Nat) : run (m + n) s = run n t := by
  induction m generalizing s with
  | zero =>
    obtain rfl : s = t := by injection h
    rw [Nat.zero_add]
  | succ m ih =>
    obtain ⟨u, hu, hr⟩ := run_succ_inv h
    rw [Nat.add_right_comm, run_succ_of_next hu, ih hr]

/-- A run that ends in a next state passes through a next state at every earlier point. -/
theorem run_add_inv {m n : Nat} {s u : State} (h : run (m + n) s = .next u) :
    ∃ t, run m s = .next t ∧ run n t = .next u := by
  induction m generalizing s with
  | zero => exact ⟨s, rfl, by rwa [Nat.zero_add] at h⟩
  | succ m ih =>
    rw [Nat.add_right_comm] at h
    obtain ⟨t, ht, hr⟩ := run_succ_inv h
    obtain ⟨v, hv, hu⟩ := ih hr
    exact ⟨v, by rw [run_succ_of_next ht, hv], hu⟩

/-- The last step of a run. -/
theorem run_succ_last {n : Nat} {s u : State} (h : run (n + 1) s = .next u) : ∃ t, run n s = .next t ∧ step t = .next u := by
  obtain ⟨t, ht, hr⟩ := run_add_inv h
  obtain ⟨v, hv, hu⟩ := run_succ_inv hr
  obtain rfl : v = u := by injection hu
  exact ⟨t, ht, hv⟩

/-- What every step keeps, a run keeps. -/
theorem run_invariant {P : State → Prop} (hstep : ∀ s t, P s → step s = .next t → P t) {n : Nat} {s t : State} (hs : P s)
    (h : run n s = .next t) : P t := by
  induction n generalizing s with
  | zero =>
    obtain rfl : s = t := by injection h
    exact hs
  | succ n ih =>
    obtain ⟨u, hu, hr⟩ := run_succ_inv h
    exact ih (hstep s u hs hu) hr

/-- A state that its step does not change stays through any run. -/
theorem run_of_stays {s : State} (h : step s = .next s) (n : Nat) : run n s = .next s := by
  induction n with
  | zero => rfl
  | succ n ih => rw [run_succ_of_next h, ih]

/-! ## Where a run ends -/

/-- No phase is both BUSY and ended. -/
theorem not_finished_of_busy {p : Phase} (h : p.busy = true) : p.finished = false := by
  cases p <;> first | rfl | cases h

/-- A run that has ended stays at its end. -/
theorem endOfRun_of_finished {s : State} (h : s.phase.finished = true) (n : Nat) : endOfRun n s = some s := by
  cases n <;> simp [endOfRun, h]

/-- While BUSY a run goes on with its next step. -/
theorem endOfRun_of_busy {s t : State} (hb : s.phase.busy = true) (h : step s = .next t) (n : Nat) :
    endOfRun (n + 1) s = endOfRun n t := by
  simp [endOfRun, not_finished_of_busy hb, hb, h]

/-- The end of a run is reached by some of its steps, through states that are all BUSY, and is in DONE or ERROR. -/
theorem endOfRun_some {n : Nat} {s t : State} (h : endOfRun n s = some t) :
    ∃ k, k ≤ n ∧ run k s = .next t ∧ t.phase.finished = true ∧
      ∀ j u, j < k → run j s = .next u → u.phase.busy = true := by
  induction n generalizing s with
  | zero =>
    cases hf : s.phase.finished <;> simp only [endOfRun, hf, Bool.false_eq_true, if_true, if_false, reduceCtorEq] at h
    cases h
    exact ⟨0, le_rfl, rfl, hf, fun j _ hj => absurd hj (Nat.not_lt_zero j)⟩
  | succ n ih =>
    cases hf : s.phase.finished with
    | true =>
      rw [endOfRun_of_finished hf] at h
      cases h
      exact ⟨0, Nat.zero_le _, rfl, hf, fun j _ hj => absurd hj (Nat.not_lt_zero j)⟩
    | false =>
      cases hb : s.phase.busy with
      | false => simp [endOfRun, hf, hb] at h
      | true =>
        cases hs : step s with
        | fault e => simp [endOfRun, hf, hb, hs] at h
        | refused e => simp [endOfRun, hf, hb, hs] at h
        | next v =>
          rw [endOfRun_of_busy hb hs] at h
          obtain ⟨k, hk, hr, hfin, hbusy⟩ := ih h
          refine ⟨k + 1, Nat.succ_le_succ hk, by rw [run_succ_of_next hs, hr], hfin, fun j u hj hu => ?_⟩
          cases j with
          | zero =>
            obtain rfl : s = u := by injection hu
            exact hb
          | succ j =>
            rw [run_succ_of_next hs] at hu
            exact hbusy j u (Nat.lt_of_succ_lt_succ hj) hu

/-- A state in DONE or ERROR that a run reaches through BUSY states is its end. -/
theorem endOfRun_of_run {k n : Nat} {s t : State} (hk : k ≤ n) (h : run k s = .next t) (hf : t.phase.finished = true)
    (hb : ∀ j u, j < k → run j s = .next u → u.phase.busy = true) : endOfRun n s = some t := by
  induction k generalizing s n with
  | zero =>
    obtain rfl : s = t := by injection h
    exact endOfRun_of_finished hf n
  | succ k ih =>
    obtain ⟨v, hv, hr⟩ := run_succ_inv h
    obtain ⟨n, rfl⟩ := Nat.exists_eq_succ_of_ne_zero (Nat.ne_of_gt (Nat.lt_of_lt_of_le k.succ_pos hk))
    rw [endOfRun_of_busy (hb 0 s k.succ_pos rfl) hv]
    exact ih (Nat.le_of_succ_le_succ hk) hr fun j u hj hu =>
      hb (j + 1) u (Nat.succ_lt_succ hj) (by rw [run_succ_of_next hv, hu])

end Sys2Proof.Machine
end

