-- ==== Sys2Proof/Tests/Slice0.lean ====
section
/-!
SUPPORT. Tests of one step each, with expected results taken from spec/ (the vectors of 95_test_vectors.md where one is
named), and a witness for the hypotheses of every statement, clause by clause at its boundary values.
-/
namespace Sys2Proof.Tests
open Sys2Proof Sys2Proof.Machine

/-! ## Helpers -/

/-- Parameters with `MAX_IN_LEN` at its lower bound and `OUT_CAP` at its largest. -/
def p0 : Params := ⟨0xA1, 0xB2, 0, 0xFFFFFF⟩

/-- Bytes at rising addresses. -/
def cells (a : Nat) : List Byte → Memory
  | [] => []
  | b :: bs => (a, b) :: cells (a + 1) bs

/-- A block in HDR with a stream, `OUT_CAP` as given. -/
def hdrCap (cap : BitVec 24) (stream : List Byte) : State :=
  { State.reset with
    params := { p0 with outCap := cap }, phase := .hdr, inLen := BitVec.ofNat 32 stream.length, inMem := cells 0 stream }

/-- A block in HDR with a stream. -/
def hdr (stream : List Byte) : State := hdrCap 0xFFFFFF stream

/-- A block in HDR whose `IN_LEN` is set apart from what is stored. -/
def hdrLen (n : Nat) (stream : List Byte) : State := { hdr stream with inLen := BitVec.ofNat 32 n }

/-- A block past the header: phase, variant, declared length, the output so far, the stream, the input cursor. -/
def live (ph : Phase) (v : Variant) (decl : Nat) (out stream : List Byte) (cur : Nat) : State :=
  { State.reset with
    params := p0, phase := ph, variant := v, status := ⟨.noError, false, false, false, variantBit v, true⟩
    declLen := BitVec.ofNat 24 decl, inLen := BitVec.ofNat 32 stream.length, inCur := BitVec.ofNat 32 cur
    outCur := BitVec.ofNat 24 out.length, inMem := cells 0 stream, outMem := cells 0 out }

/-- In TOP, with the flags byte and the mask. -/
def top (v : Variant) (decl : Nat) (out stream : List Byte) (cur : Nat) (f m : Byte) : State :=
  { live .top v decl out stream cur with flags := f, mask := m }

/-- In COPY, with the count and the distance. -/
def copying (v : Variant) (decl : Nat) (out stream : List Byte) (cur count dist : Nat) : State :=
  { live .copy v decl out stream cur with
    mask := 0x40, length := BitVec.ofNat 17 count, dist := BitVec.ofNat 13 dist, count := BitVec.ofNat 17 count }

/-- A block at rest in IDLE, with the parameters above. -/
def resting : State := { State.reset with params := p0 }

/-- A test of what a step answers. -/
def nextIs (o : Out) (ok : State → Bool) : Bool :=
  match o with
  | .next t => ok t
  | .fault _ => false
  | .refused _ => false

/-- What the test says: there is a next state, and it passes. -/
theorem next_of_nextIs {o : Out} {ok : State → Bool} (h : nextIs o ok = true) : ∃ t, o = .next t ∧ ok t = true := by
  cases o with
  | next t => exact ⟨t, rfl, h⟩
  | fault _ => cases h
  | refused _ => cases h

/-- The decoder's answer, to be compared. -/
def decoded (c : Context) (bytes : List Byte) : Option (Instr × List Byte) :=
  match decode p0 c bytes with
  | .ok x => some x
  | .error _ => none

/-- The header stream of W1 (spec/95_test_vectors.md). -/
def w1 : List Byte := [0xA1, 0x04, 0x00, 0x00, 0x40, 0xAB, 0x20, 0x00]

/-- Vector O2 in DONE, with both warnings. -/
def doneO2 : State :=
  { live .done .A 3 [0x41, 0x41, 0x41] [0xA1, 3, 0, 0, 0x40, 0x41, 0x20, 0x00, 0xEE] 8 with
    status := ⟨.noError, true, false, true, false, true⟩, outLen := 3, inConsumed := 8 }

/-- Vector C7 in ERROR. -/
def errorC7 : State :=
  { live .error .A 5 [0x58, 0x59, 0x5A] [0xA1, 5, 0, 0, 0x10, 0x58, 0x59, 0x5A, 0x20, 0x03] 10 with
    status := ⟨.badDistance, false, false, false, false, true⟩, outLen := 3, inConsumed := 10 }

/-! ## Well-formedness -/

theorem test_wellFormed_refaS_tier : Instr.wellFormed (.refaS 1 0) = false ∧ Instr.wellFormed (.refaS 2 0) = true := by decide

theorem test_wellFormed_refbS_tier : Instr.wellFormed (.refbS 1 0) = false ∧ Instr.wellFormed (.refbS 2 0) = true := by decide

theorem test_wellFormed_padb2_sentinel :
    Instr.wellFormed (.padb2 0x80 0) = false ∧ Instr.wellFormed (.padb2 0x7F 0) = true := by decide

/-! ## Decoding: words written out from the encoding tables R71 to R81 -/

theorem test_decode_hdrA : decoded .header [0xA1, 0x42, 0x01, 0x00] = some (.hdrA 322, []) := by decide

theorem test_decode_hdrB : decoded .header [0xB2, 0x01, 0x04, 0x00, 0x07] = some (.hdrB 1025, [0x07]) := by decide

theorem test_decode_unknown_tag : decoded .header [0x99, 0x01, 0x00, 0x00] = none := by decide

theorem test_decode_flagsA : decoded (.flags .A) [0x40] = some (.flagsA 0x40, []) := by decide

theorem test_decode_flagsB : decoded (.flags .B) [0xC0] = some (.flagsB 0xC0, []) := by decide

theorem test_decode_lit :
    decoded (.token .A false) [0xAB] = some (.lit 0xAB, []) ∧ decoded (.token .B false) [0x80] = some (.lit 0x80, []) := by
  decide

/-- Vectors A2 and A4. -/
theorem test_decode_refaS :
    decoded (.token .A true) [0x2F, 0xFF] = some (.refaS 2 0xFFF, []) ∧
    decoded (.token .A true) [0x50, 0x02, 0x44] = some (.refaS 5 2, [0x44]) := by decide

/-- Vector A8. -/
theorem test_decode_refaM : decoded (.token .A true) [0x01, 0x23, 0x45] = some (.refaM 0x12 0x345, []) := by decide

/-- Vector A13. -/
theorem test_decode_refaL : decoded (.token .A true) [0x1A, 0xBC, 0xDE, 0xF0] = some (.refaL 0xABCD 0xEF0, []) := by decide

/-- Vector B4. -/
theorem test_decode_refbS : decoded (.token .B true) [0x1A, 0x00] = some (.refbS 10 1, []) := by decide

/-- Vector B8. -/
theorem test_decode_refbM : decoded (.token .B true) [0xA0, 0x05, 0x33] = some (.refbM 0x33 0x05A, []) := by decide

/-- Program P2's long form with its high length byte set. -/
theorem test_decode_refbL : decoded (.token .B true) [0x21, 0x00, 0x1C, 0x01] = some (.refbL 0x011C 2, []) := by decide

theorem test_decode_padb2 : decoded .trailer [0x7F, 0x55] = some (.padb2 0x7F 0x55, []) := by decide

theorem test_decode_padb3 : decoded .trailer [0x80, 0x12, 0x34] = some (.padb3 0x12 0x34, []) := by decide

theorem test_decode_too_short :
    decoded (.token .A true) [0x10, 0x00, 0x00] = none ∧ decoded (.token .B true) [0x10, 0x00] = none ∧
    decoded .trailer [0x80, 0x00] = none ∧ decoded .header [0xA1, 0x00, 0x00] = none := by decide

/-- Vectors A3, A9, A14, B5, B9, B12: the largest operands of each form. -/
theorem test_operands_largest :
    refOperands (.refaS 15 0xFFF) = some (16, 4096) ∧ refOperands (.refaM 0xFF 0xFFF) = some (272, 4096) ∧
    refOperands (.refaL 0xFFFF 0xFFF) = some (65808, 4096) ∧ refOperands (.refbS 15 0xFFF) = some (15, 4095) ∧
    refOperands (.refbM 0xFF 0xFFF) = some (271, 4095) ∧ refOperands (.refbL 0xFFFF 0xFFF) = some (65807, 4095) := by
  decide

/-- Vectors A8, A13, B4, B8 and program P2: operands with every field non-zero. -/
theorem test_operands_mixed :
    refOperands (.refaM 0x12 0x345) = some (35, 838) ∧ refOperands (.refaL 0xABCD 0xEF0) = some (44254, 3825) ∧
    refOperands (.refbS 10 1) = some (10, 1) ∧ refOperands (.refbM 0x33 0x05A) = some (67, 90) ∧
    refOperands (.refbL 0x001C 2) = some (300, 2) := by decide

/-- R86's rows by hand: the statements of programs P1, P2 and P7. -/
theorem test_assemble :
    assemble p0 (.hdrA 322) = some [0xA1, 0x42, 0x01, 0x00] ∧ assemble p0 (.refaS 6 3) = some [0x50, 0x02] ∧
    assemble p0 (.refaM 17 2) = some [0x00, 0x00, 0x01] ∧ assemble p0 (.refaL 300 5) = some [0x10, 0x01, 0xB0, 0x04] ∧
    assemble p0 (.refbM 20 1) = some [0x10, 0x00, 0x04] ∧ assemble p0 (.refbL 300 2) = some [0x21, 0x00, 0x1C, 0x00] ∧
    assemble p0 (.refaS 17 1) = none ∧ assemble p0 (.padb2 0x80 0) = none := by decide

/-- Table words of the host's numbering, `b0` most significant (R85). -/
theorem test_table_words :
    decodeTableWord 24 0x012345 = some (.refaM 0x12 0x345) ∧ decodeTableWord 16 0x5002 = some (.refaS 5 2) ∧
    decodeTableWord 24 0x801234 = some (.padb3 0x12 0x34) ∧ decodeTableWord 8 0x40 = some (.flagsA 0x40) := by decide

/-- A table word placed right after reset is what the next step runs: REFA.M's length register shows it. -/
theorem test_withFetchWord :
    nextIs (step (State.reset.withFetchWord 24 0x012345)) (fun t => decide (t.length = 35 ∧ t.dist = 838)) = true := by decide

/-! ## One step of each row -/

/-- W1, step 1 of its trace. -/
theorem test_hdrA :
    nextIs (step (hdr w1)) (fun t => decide (t.phase = .top ∧ t.variant = .A ∧ t.declLen = 4 ∧ t.inCur = 4 ∧
      statusWord t.phase t.status = 0x2001)) = true := by decide

/-- Vector H5: the allocation check, with what it records. -/
theorem test_hdrB_alloc :
    nextIs (step (hdrCap 1024 [0xB2, 0x01, 0x04, 0x00, 0x00])) (fun t => decide (statusWord t.phase t.status = 0x3033 ∧
      t.declLen = 1025 ∧ t.outLen = 0 ∧ t.inConsumed = 0)) = true := by decide

/-- Vector H5e: a declared length equal to the capacity passes. -/
theorem test_hdrB_at_capacity :
    nextIs (step (hdrCap 1024 [0xB2, 0x00, 0x04, 0x00, 0x00, 0x00])) (fun t => decide (t.phase = .top ∧ t.variant = .B)) =
      true := by decide

/-- Vectors W7, H4 and H3: the tag check, the size check before it, the tag check before the allocation check. -/
theorem test_header_rejected :
    nextIs (step (hdr [0x99, 0x01, 0x00, 0x00, 0x00, 0x41])) (fun t => decide (statusWord t.phase t.status = 0x0023 ∧
      t.declLen = 0)) = true ∧
    nextIs (step (hdr [0x99, 0x00, 0x00])) (fun t => decide (statusWord t.phase t.status = 0x0013)) = true ∧
    nextIs (step (hdrCap 0 [0x99, 0xFF, 0xFF, 0xFF])) (fun t => decide (statusWord t.phase t.status = 0x0023)) = true := by
  decide

/-- W1, step 2: the flags byte and its literal in one step. -/
theorem test_flagsA_and_lit :
    nextIs (step (top .A 4 [] w1 4 0 0)) (fun t => decide (t.flags = 0x40 ∧ t.mask = 0x40 ∧ t.inCur = 6 ∧ t.outCur = 1 ∧
      t.outMem = [(0, 0xAB)] ∧ t.phase = .top)) = true := by decide

/-- P6, step 2: a stored `C0` is `40` in variant B. -/
theorem test_flagsB_negated :
    nextIs (step (top .B 3 [] [0xB2, 3, 0, 0, 0xC0, 0x33, 0x02, 0x00, 0x00, 0x00] 4 0 0)) (fun t => decide (t.flags = 0x40 ∧
      t.inCur = 6 ∧ t.outCur = 1)) = true := by decide

/-- Vector L3: a flags byte as the last byte ends the loop at its token. -/
theorem test_lit_truncated :
    nextIs (step (top .A 1 [] [0xA1, 1, 0, 0, 0x00] 4 0 0)) (fun t => decide (t.phase = .post ∧ t.inCur = 5 ∧
      t.outMem = [])) = true := by decide

/-- W1, step 3: REFA.S `20 00`. -/
theorem test_refaS :
    nextIs (step (top .A 4 [0xAB] w1 6 0x40 0x40)) (fun t => decide (t.phase = .copy ∧ t.count = 3 ∧ t.dist = 1 ∧
      t.inCur = 8 ∧ t.mask = 0x20)) = true := by decide

/-- Vector C7: a distance one past the start of the output. -/
theorem test_refaS_bad_distance :
    nextIs (step (top .A 5 [0x58, 0x59, 0x5A] [0xA1, 5, 0, 0, 0x10, 0x58, 0x59, 0x5A, 0x20, 0x03] 8 0x10 0x10)) (fun t =>
      decide (statusWord t.phase t.status = 0x2043 ∧ t.outLen = 3 ∧ t.inConsumed = 10)) = true := by decide

/-- Vector O3: REFA.M (17, 1) that fits. -/
theorem test_refaM :
    nextIs (step (top .A 20 [0x41] [0xA1, 0x14, 0, 0, 0x40, 0x41, 0, 0, 0] 6 0x40 0x40)) (fun t => decide (t.phase = .copy ∧
      t.count = 17 ∧ t.dist = 1 ∧ t.inCur = 9 ∧ t.status.warnOverrun = false)) = true := by decide

/-- Vector T2: REFA.M cut before `b2`, its first word consumed. -/
theorem test_refaM_truncated :
    nextIs (step (top .A 5 [0xAB] [0xA1, 5, 0, 0, 0x40, 0xAB, 0x00, 0x05] 6 0x40 0x40)) (fun t => decide (t.phase = .post ∧
      t.inCur = 8 ∧ t.outCur = 1)) = true := by decide

/-- Vector O4: REFA.L 273 clamped to 272. -/
theorem test_refaL_clamped :
    nextIs (step (top .A 273 [0x41] [0xA1, 0x11, 1, 0, 0x40, 0x41, 0x10, 0, 0, 0] 6 0x40 0x40)) (fun t =>
      decide (t.phase = .copy ∧ t.count = 272 ∧ t.status.warnOverrun = true ∧ t.inCur = 10)) = true := by decide

/-- Vector T3: REFA.L cut before `b3`. -/
theorem test_refaL_truncated :
    nextIs (step (top .A 5 [0xAB] [0xA1, 5, 0, 0, 0x40, 0xAB, 0x10, 0, 0] 6 0x40 0x40)) (fun t => decide (t.phase = .post ∧
      t.inCur = 9)) = true := by decide

/-- W2B: REFB.S `1A 00`. -/
theorem test_refbS :
    nextIs (step (top .B 11 [0x5A] [0xB2, 0x0B, 0, 0, 0xC0, 0x5A, 0x1A, 0, 0, 0] 6 0x40 0x40)) (fun t =>
      decide (t.phase = .copy ∧ t.count = 10 ∧ t.dist = 1 ∧ t.inCur = 8)) = true := by decide

/-- P6, step 3: distance 0. -/
theorem test_refbS_distance_zero :
    nextIs (step (top .B 3 [0x33] [0xB2, 3, 0, 0, 0xC0, 0x33, 0x02, 0x00, 0x00, 0x00] 6 0x40 0x40)) (fun t =>
      decide (statusWord t.phase t.status = 0x3043 ∧ t.outLen = 1 ∧ t.inConsumed = 8)) = true := by decide

/-- P2: REFB.M `10 00 04`. -/
theorem test_refbM :
    nextIs (step (top .B 322 [0x00] [0xB2, 0x42, 1, 0, 0xB0, 0x00, 0x10, 0x00, 0x04] 6 0x50 0x40)) (fun t =>
      decide (t.phase = .copy ∧ t.count = 20 ∧ t.dist = 1 ∧ t.inCur = 9)) = true := by decide

/-- Vector T5: REFB.M cut before `b2`. -/
theorem test_refbM_truncated :
    nextIs (step (top .B 5 [0xAB] [0xB2, 5, 0, 0, 0xC0, 0xAB, 0x10, 0x00] 6 0x40 0x40)) (fun t => decide (t.phase = .post ∧
      t.inCur = 8)) = true := by decide

/-- P2's REFB.L `21 00 1C 00`, here with two bytes of output before it. -/
theorem test_refbL :
    nextIs (step (top .B 302 [0x00, 0x07] [0xB2, 0x2E, 1, 0, 0xE0, 0x00, 0x07, 0x21, 0x00, 0x1C, 0x00] 7 0x20 0x20)) (fun t =>
      decide (t.phase = .copy ∧ t.count = 300 ∧ t.dist = 2 ∧ t.inCur = 11)) = true := by decide

/-- Vector T6: REFB.L cut before `b3`. -/
theorem test_refbL_truncated :
    nextIs (step (top .B 5 [0xAB] [0xB2, 5, 0, 0, 0xC0, 0xAB, 0x11, 0x00, 0x00] 6 0x40 0x40)) (fun t =>
      decide (t.phase = .post ∧ t.inCur = 9 ∧ t.outCur = 1)) = true := by decide

/-- W1, steps 4 and 6: a copy step reads the byte written just before, and the last one returns to TOP. -/
theorem test_copy_step :
    nextIs (step (copying .A 4 [0xAB] w1 8 3 1)) (fun t => decide (t.outMem = [(0, 0xAB), (1, 0xAB)] ∧ t.count = 2 ∧
      t.phase = .copy)) = true ∧
    nextIs (step (copying .A 4 [0xAB, 0xAB, 0xAB] w1 8 1 1)) (fun t => decide (t.outCur = 4 ∧ t.phase = .top)) = true := by
  decide

/-- W1, step 8: variant A completes without a trailer. -/
theorem test_post_A :
    nextIs (step (live .post .A 4 [0xAB, 0xAB, 0xAB, 0xAB] w1 8)) (fun t => decide (statusWord t.phase t.status = 0x2002 ∧
      t.outLen = 4 ∧ t.inConsumed = 8)) = true := by decide

/-- Vectors E0d and E2: PADB2, and PADB2 with a byte left over. -/
theorem test_padb2 :
    nextIs (step (live .post .B 2 [0x61, 0x62] [0xB2, 2, 0, 0, 0, 0x61, 0x62, 0x7F, 0x55] 7)) (fun t =>
      decide (statusWord t.phase t.status = 0x3002 ∧ t.inConsumed = 9)) = true ∧
    nextIs (step (live .post .B 2 [0x61, 0x62] [0xB2, 2, 0, 0, 0, 0x61, 0x62, 0x7F, 0, 0] 7)) (fun t =>
      decide (statusWord t.phase t.status = 0x3402 ∧ t.inConsumed = 9)) = true := by decide

/-- Vectors E0c and E1: PADB3, and PADB3 past the end. -/
theorem test_padb3 :
    nextIs (step (live .post .B 2 [0x61, 0x62] [0xB2, 2, 0, 0, 0, 0x61, 0x62, 0x80, 0x12, 0x34] 7)) (fun t =>
      decide (statusWord t.phase t.status = 0x3002 ∧ t.inConsumed = 10)) = true ∧
    nextIs (step (live .post .B 2 [0x61, 0x62] [0xB2, 2, 0, 0, 0, 0x61, 0x62, 0x80] 7)) (fun t =>
      decide (statusWord t.phase t.status = 0x3402 ∧ t.inConsumed = 10)) = true := by decide

/-- Vectors E5 and P4: no byte left for the sentinel test, with and without the full output. -/
theorem test_post_without_trailer :
    nextIs (step (live .post .B 2 [0x61, 0x62] [0xB2, 2, 0, 0, 0, 0x61, 0x62] 7)) (fun t =>
      decide (statusWord t.phase t.status = 0x3402 ∧ t.inConsumed = 9)) = true ∧
    nextIs (step (live .post .B 8 [1, 2, 3] [0xB2, 8, 0, 0, 0, 1, 2, 3] 8)) (fun t =>
      decide (statusWord t.phase t.status = 0x3202 ∧ t.outLen = 3 ∧ t.inConsumed = 10)) = true := by decide

/-! ## The host's moves -/

/-- R253: the host writes a byte, `IN_LEN` and START, in three turns of the agenda. -/
theorem test_host_sets_up :
    nextIs (step { resting with agenda := [.host (.writeIn 3 0x5A)] }) (fun t => decide (t.inMem = [(3, 0x5A)] ∧
      t.agenda = [])) = true ∧
    nextIs (step { resting with agenda := [.host (.writeReg 0x08 .word 8)] }) (fun t => decide (t.inLen = 8)) = true ∧
    nextIs (step { resting with agenda := [.host (.writeReg 0x00 .word 1)] }) (fun t => decide (t.phase = .hdr)) = true := by
  decide

/-- P8: START from ERROR clears every result. -/
theorem test_start_from_error :
    nextIs (hostMove (.writeReg 0x00 .word 1)
      { resting with phase := .error, status := ⟨.formatTag, false, false, false, false, false⟩, inLen := 6 }) (fun t =>
        decide (statusWord t.phase t.status = 0x0001 ∧ t.inLen = 6)) = true := by decide

/-- R254 (d), (e): `IN_LEN` writes and START while BUSY do nothing. -/
theorem test_ignored_while_busy :
    nextIs (hostMove (.writeReg 0x08 .word 1) (hdr w1)) (fun t => decide (t = hdr w1)) = true ∧
    nextIs (hostMove (.writeReg 0x00 .word 1) (hdr w1)) (fun t => decide (t = hdr w1)) = true := by decide

/-- R25, R30: `STATUS` and `CAP_OUT` as the host reads them. -/
theorem test_register_reads :
    nextIs (hostMove (.readReg 0x04 .word) (live .done .B 0 [] [] 0)) (fun t => decide (t.hostData = 0x3002)) = true ∧
    nextIs (hostMove (.readReg 0x1C .word) resting) (fun t => decide (t.hostData = 0x00FFFFFF)) = true := by decide

/-- R58: register bit 0 is bit 0 of the byte at the register's offset. -/
theorem test_window_is_little_endian :
    windowByte (live .done .B 0 [] [] 0) 0x04 = 0x02 ∧ windowByte (live .done .B 0 [] [] 0) 0x05 = 0x30 := by decide

/-- R260: the bytes that vector C7 has written are excluded from its observation, those of vector O2 are in it. -/
theorem test_observation_excludes_bad_distance :
    (observe { errorC7 with outMem := cells 0 [0x58, 0x59, 0x5A] }).map (·.output) = some none ∧
    (observe doneO2).map (·.output) = some (some [0x41, 0x41, 0x41]) ∧ observe (hdr w1) = none := by decide

/-- R260: the run of a rejected stream ends at its first ended state, and a state that no START leads to has no run. -/
theorem test_run_ends_at_its_first_end :
    (observeRun 5 (hdr [0x99, 0x01, 0x00, 0x00, 0x00, 0x41])).map (·.status) = some 0x0023 ∧ observeRun 0 (hdr w1) = none ∧
    observeRun 5 doneO2 = none := by decide

/-- R250: reset while BUSY. -/
theorem test_reset_while_busy :
    nextIs (hostMove .reset (copying .A 4 [0xAB] w1 8 3 1)) (fun t => decide (t.phase = .idle ∧ t.inLen = 0 ∧
      t.memEpoch = 1 ∧ t.params = p0)) = true := by decide

/-! ## Witnesses: states that meet the hypotheses of the statements -/

/-- W1 in HDR. -/
theorem test_inv_hdr : (hdr w1).Inv :=
  ⟨by decide, by decide, by decide, by decide, by decide, by decide, by decide, by decide⟩

/-- W1 before its first token. -/
theorem test_inv_top : (top .A 4 [] w1 4 0 0).Inv :=
  ⟨by decide, by decide, by decide, by decide, by decide, by decide, by decide, by decide⟩

/-- W1 with three bytes left to copy. -/
theorem test_inv_copy : (copying .A 4 [0xAB] w1 8 3 1).Inv :=
  ⟨by decide, by decide, by decide, by decide, by decide, by decide, by decide, by decide⟩

/-- W1 in POST. -/
theorem test_inv_post : (live .post .A 4 [0xAB, 0xAB, 0xAB, 0xAB] w1 8).Inv :=
  ⟨by decide, by decide, by decide, by decide, by decide, by decide, by decide, by decide⟩

theorem test_inv_done : doneO2.Inv :=
  ⟨by decide, by decide, by decide, by decide, by decide, by decide, by decide, by decide⟩

theorem test_inv_error : errorC7.Inv :=
  ⟨by decide, by decide, by decide, by decide, by decide, by decide, by decide, by decide⟩

theorem test_inv_idle : resting.Inv :=
  ⟨by decide, by decide, by decide, by decide, by decide, by decide, by decide, by decide⟩

/-! ### Encoding -/

theorem test_witness_WrittenOutWordsDecode : p0.tagA ≠ p0.tagB := by decide

theorem test_witness_DecodeInvertsEncode :
    p0.tagA ≠ p0.tagB ∧ (Instr.refbL 0xFFFF 0xFFF).wellFormed = true ∧
    (Instr.refbL 0xFFFF 0xFFF).appliesIn (.token .B true) = true ∧
    (Instr.refaS 2 0).wellFormed = true ∧ (Instr.refaS 2 0).appliesIn (.token .A true) = true ∧
    (Instr.padb2 0x7F 0).wellFormed = true ∧ (Instr.padb2 0x7F 0).appliesIn .trailer = true := by decide

theorem test_witness_EncodeInvertsDecode : decode p0 .trailer [0x80, 1, 2, 3] = .ok (.padb3 1 2, [3]) := rfl

/-- The first words of vectors A8, A13, A1 and B8, B11, B1: each tier of each variant. -/
theorem test_witness_ReferenceOperandsFollowParsers :
    ((0x01#8).toNat <<< 8 ||| (0x23#8).toNat) >>> 12 = 0 ∧ ((0x1A#8).toNat <<< 8 ||| (0xBC#8).toNat) >>> 12 = 1 ∧
    ((0x20#8).toNat <<< 8 ||| (0x00#8).toNat) >>> 12 = 2 ∧ ((0xA0#8).toNat ||| (0x05#8).toNat <<< 8) &&& 0xF = 0 ∧
    ((0x21#8).toNat ||| (0x00#8).toNat <<< 8) &&& 0xF = 1 ∧ ((0x12#8).toNat ||| (0x00#8).toNat <<< 8) &&& 0xF = 2 := by
  decide

/-- The three tiers of variant A at boundary values. -/
theorem test_witness_VariantARanges :
    (Instr.refaS 2 0).wellFormed = true ∧ (Instr.refaS 2 0).appliesIn (.token .A true) = true ∧
    refOperands (.refaS 2 0) = some (3, 1) ∧ refOperands (.refaS 15 0xFFF) = some (16, 4096) ∧
    refOperands (.refaM 0 0) = some (17, 1) ∧ refOperands (.refaM 0xFF 0xFFF) = some (272, 4096) ∧
    refOperands (.refaL 0 0) = some (273, 1) ∧ refOperands (.refaL 0xFFFF 0xFFF) = some (65808, 4096) := by decide

/-- The three tiers of variant B at boundary values. -/
theorem test_witness_VariantBRanges :
    (Instr.refbS 2 0).wellFormed = true ∧ (Instr.refbS 2 0).appliesIn (.token .B true) = true ∧
    refOperands (.refbS 2 0) = some (2, 0) ∧ refOperands (.refbS 15 0xFFF) = some (15, 4095) ∧
    refOperands (.refbM 0 0) = some (16, 0) ∧ refOperands (.refbM 0xFF 0xFFF) = some (271, 4095) ∧
    refOperands (.refbL 0 0) = some (272, 0) ∧ refOperands (.refbL 0xFFFF 0xFFF) = some (65807, 4095) := by decide

theorem test_witness_ReferenceEncodingIsUnique :
    (Instr.refaM 0x12 0x345).wellFormed = true ∧ (Instr.refaM 0x12 0x345).appliesIn (.token .A true) = true ∧
    refOperands (.refaM 0x12 0x345) = some (35, 838) := by decide

/-- Each form's statement at both ends of its ranges. -/
theorem test_witness_AssembledStatementsDecode :
    Stmt.inRange (.hdrA 16777215) = true ∧
    Stmt.inRange (.refaS 3 1) = true ∧ Stmt.inRange (.refaS 16 4096) = true ∧
    Stmt.inRange (.refaM 17 1) = true ∧ Stmt.inRange (.refaM 272 4096) = true ∧
    Stmt.inRange (.refaL 273 1) = true ∧ Stmt.inRange (.refaL 65808 4096) = true ∧
    Stmt.inRange (.refbS 2 0) = true ∧ Stmt.inRange (.refbS 15 4095) = true ∧
    Stmt.inRange (.refbM 16 0) = true ∧ Stmt.inRange (.refbM 271 4095) = true ∧
    Stmt.inRange (.refbL 272 0) = true ∧ Stmt.inRange (.refbL 65807 4095) = true := by decide

/-- `REF` at the lengths where the forms meet. -/
theorem test_witness_PseudoInstructionsExpand :
    Pseudo.expand .A (.ref 16 4096) = .refaS 16 4096 ∧ Pseudo.expand .A (.ref 17 1) = .refaM 17 1 ∧
    Pseudo.expand .A (.ref 272 1) = .refaM 272 1 ∧ Pseudo.expand .B (.ref 271 0) = .refbM 271 0 ∧
    Pseudo.expand .A (.ref 273 1) = .refaL 273 1 ∧ Pseudo.expand .B (.ref 15 0) = .refbS 15 0 ∧
    Pseudo.expand .B (.ref 16 0) = .refbM 16 0 ∧ Pseudo.expand .B (.ref 272 4095) = .refbL 272 4095 ∧
    Pseudo.expand .B (.flags 0x40) = .flagsB 0xC0 := by decide

/-! ### A step runs the decoded instruction -/

theorem test_witness_StepRunsHeader :
    (hdr w1).agenda = [] ∧ (hdr w1).phase = .hdr ∧ 4 ≤ (hdr w1).inLen.toNat ∧
    (hdr w1).inLen.toNat ≤ (hdr w1).params.maxInLen ∧
    decode (hdr w1).params .header (streamBytes (hdr w1) 0 4) = .ok (.hdrA 4, []) :=
  ⟨rfl, rfl, by decide, by decide, rfl⟩

theorem test_witness_StepRunsFlagsByte :
    let s := top .A 4 [] w1 4 0 0
    s.agenda = [] ∧ s.phase = .top ∧ s.outCur.toNat < s.declLen.toNat ∧ s.inCur.toNat < s.inLen.toNat ∧ s.mask = 0 ∧
    decode s.params (.flags s.variant) (streamBytes s s.inCur.toNat 1) = .ok (.flagsA 0x40, []) :=
  ⟨rfl, rfl, by decide, by decide, rfl, rfl⟩

theorem test_witness_StepRunsToken :
    let s := top .A 4 [0xAB] w1 6 0x40 0x40
    decode s.params (.token s.variant (flagBit s)) (streamBytes s s.inCur.toNat 4) = .ok (.refaS 2 0, []) ∧
    s.agenda = [] ∧ s.phase = .top ∧ s.outCur.toNat < s.declLen.toNat ∧ s.inCur.toNat < s.inLen.toNat ∧ s.mask ≠ 0 :=
  ⟨rfl, rfl, rfl, by decide, by decide, by decide⟩

theorem test_witness_StepRunsTrailer :
    let s := live .post .B 2 [0x61, 0x62] [0xB2, 2, 0, 0, 0, 0x61, 0x62, 0x80, 0x12, 0x34] 7
    s.agenda = [] ∧ s.phase = .post ∧ s.variant = .B ∧
    decode s.params .trailer (streamBytes s s.inCur.toNat 3) = .ok (.padb3 0x12 0x34, []) := ⟨rfl, rfl, rfl, rfl⟩

theorem test_witness_StepTakesTheNextTurn :
    resting.agenda = [] ∧ { resting with agenda := [.block, .host .reset] }.agenda = .block :: [.host .reset] ∧
    { resting with agenda := [.host .reset] }.agenda = .host .reset :: [] := ⟨rfl, rfl, rfl⟩

/-! ### The steps of the block -/

/-- Every outcome of the header at its boundary: length 3, `MAX_IN_LEN + 1`, a bad tag at lengths 4 and `MAX_IN_LEN`, a
declared length one above and equal to the capacity, in both variants. -/
theorem test_witness_HeaderStep :
    ((hdr [0xA1, 0, 0]).phase = .hdr ∧ (hdr [0xA1, 0, 0]).inLen.toNat = 3) ∧
    (hdrLen 18874375 w1).params.maxInLen < (hdrLen 18874375 w1).inLen.toNat ∧
    ((hdrLen 18874374 [0x99, 0, 0, 0]).inLen.toNat ≤ p0.maxInLen ∧
      inByte (hdrLen 18874374 [0x99, 0, 0, 0]) 0 ≠ p0.tagA ∧ inByte (hdrLen 18874374 [0x99, 0, 0, 0]) 0 ≠ p0.tagB) ∧
    (4 ≤ (hdrCap 4 [0xA1, 5, 0, 0]).inLen.toNat ∧ inByte (hdrCap 4 [0xA1, 5, 0, 0]) 0 = p0.tagA ∧
      (hdrCap 4 [0xA1, 5, 0, 0]).params.outCap.toNat <
        ((inByte (hdrCap 4 [0xA1, 5, 0, 0]) 1).toNat ||| (inByte (hdrCap 4 [0xA1, 5, 0, 0]) 2).toNat <<< 8 |||
          (inByte (hdrCap 4 [0xA1, 5, 0, 0]) 3).toNat <<< 16)) ∧
    (inByte (hdrCap 5 [0xB2, 5, 0, 0]) 0 = p0.tagB ∧ inByte (hdrCap 5 [0xB2, 5, 0, 0]) 0 ≠ p0.tagA ∧
      ((inByte (hdrCap 5 [0xB2, 5, 0, 0]) 1).toNat ||| (inByte (hdrCap 5 [0xB2, 5, 0, 0]) 2).toNat <<< 8 |||
        (inByte (hdrCap 5 [0xB2, 5, 0, 0]) 3).toNat <<< 16) ≤ (hdrCap 5 [0xB2, 5, 0, 0]).params.outCap.toNat) := by
  decide

/-- Vectors H6 and H7. -/
theorem test_witness_EmptyStreamCompletes (tag : Byte) (ht : tag = 0xA1 ∨ tag = 0xB2) :
    let s := hdr [tag, 0, 0, 0]
    s.Inv ∧ s.agenda = [] ∧ s.phase = .hdr ∧ s.inLen = 4 ∧ s.inLen.toNat ≤ s.params.maxInLen ∧
    (inByte s 0 = s.params.tagA ∨ inByte s 0 = s.params.tagB) ∧ inByte s 1 = 0 ∧ inByte s 2 = 0 ∧ inByte s 3 = 0 := by
  rcases ht with rfl | rfl <;>
    exact ⟨⟨by decide, by decide, by decide, by decide, by decide, by decide, by decide, by decide⟩,
      by decide, by decide, by decide, by decide, by decide, by decide, by decide, by decide⟩

/-- The loop test's four outcomes: output complete, input exhausted, mask exhausted, mask live; and both flag bits. -/
theorem test_witness_IterationChoosesItsToken :
    (top .A 1 [0x5A] [0xA1, 1, 0, 0, 0, 0x5A] 6 0 0x40).declLen.toNat ≤
      (top .A 1 [0x5A] [0xA1, 1, 0, 0, 0, 0x5A] 6 0 0x40).outCur.toNat ∧
    (top .A 1 [] [0xA1, 1, 0, 0] 4 0 0).inLen.toNat ≤ (top .A 1 [] [0xA1, 1, 0, 0] 4 0 0).inCur.toNat ∧
    ((top .A 4 [] w1 4 0 0).outCur.toNat < (top .A 4 [] w1 4 0 0).declLen.toNat ∧
      (top .A 4 [] w1 4 0 0).inCur.toNat < (top .A 4 [] w1 4 0 0).inLen.toNat ∧ (top .A 4 [] w1 4 0 0).mask = 0) ∧
    ((top .A 4 [0xAB] w1 6 0x40 0x40).mask ≠ 0 ∧
      (top .A 4 [0xAB] w1 6 0x40 0x40).flags &&& (top .A 4 [0xAB] w1 6 0x40 0x40).mask ≠ 0) ∧
    (top .A 4 [] w1 5 0x40 0x80).flags &&& (top .A 4 [] w1 5 0x40 0x80).mask = 0 := by decide

theorem test_witness_FlagsFetchLoadsFlags (v : Variant) :
    let s := top v 1 [] [0xA1, 1, 0, 0, 0x80] 4 0 0
    s.phase = .top ∧ s.mask = 0 ∧ s.outCur.toNat < s.declLen.toNat ∧ s.inCur.toNat < s.inLen.toNat ∧
    s.inLen.toNat ≤ s.params.maxInLen ∧ s.variant = v := by
  cases v <;> decide

/-- A literal with no byte left (vector L3 after its flags fetch), and one with a byte left and room. -/
theorem test_witness_LiteralIterationCopiesByte :
    ((top .A 1 [] [0xA1, 1, 0, 0, 0] 5 0 0x80).flags &&& (top .A 1 [] [0xA1, 1, 0, 0, 0] 5 0 0x80).mask = 0 ∧
      (top .A 1 [] [0xA1, 1, 0, 0, 0] 5 0 0x80).inLen.toNat ≤ (top .A 1 [] [0xA1, 1, 0, 0, 0] 5 0 0x80).inCur.toNat) ∧
    let s := top .A 4 [] w1 5 0x40 0x80
    s.flags &&& s.mask = 0 ∧ s.inCur.toNat < s.inLen.toNat ∧ s.inLen.toNat ≤ s.params.maxInLen ∧
    s.outCur.toNat < s.params.outCap.toNat := by decide

theorem test_witness_CopyStepCopiesOneByte :
    let s := copying .A 4 [0xAB] w1 8 3 1
    s.phase = .copy ∧ 1 ≤ s.dist.toNat ∧ s.dist.toNat ≤ s.outCur.toNat ∧ s.outCur.toNat < s.params.outCap.toNat := by
  decide

/-- Variant A; variant B at the sentinel, at another byte and at the end of the input: the four skips. -/
theorem test_witness_PostStepCompletes :
    ((live .post .A 4 [0xAB, 0xAB, 0xAB, 0xAB] w1 8).phase = .post ∧
      (live .post .A 4 [0xAB, 0xAB, 0xAB, 0xAB] w1 8).inLen.toNat ≤ p0.maxInLen) ∧
    ((live .post .B 0 [] [0xB2, 0, 0, 0, 0x80] 4).inCur.toNat < (live .post .B 0 [] [0xB2, 0, 0, 0, 0x80] 4).inLen.toNat ∧
      inByte (live .post .B 0 [] [0xB2, 0, 0, 0, 0x80] 4) 4 = 0x80) ∧
    ((live .post .B 0 [] [0xB2, 0, 0, 0, 0x7F] 4).inCur.toNat < (live .post .B 0 [] [0xB2, 0, 0, 0, 0x7F] 4).inLen.toNat ∧
      inByte (live .post .B 0 [] [0xB2, 0, 0, 0, 0x7F] 4) 4 ≠ 0x80) ∧
    (live .post .B 0 [] [0xB2, 0, 0, 0] 4).inLen.toNat ≤ (live .post .B 0 [] [0xB2, 0, 0, 0] 4).inCur.toNat := by decide

/-- By the loop test, and by a token cut in its first word (vector L4). -/
theorem test_witness_PostIsEnteredFromTop :
    nextIs (blockStep (top .A 1 [] [0xA1, 1, 0, 0] 4 0 0)) (fun t => decide (t.phase = .post)) = true ∧
    nextIs (blockStep (top .A 1 [] [0xA1, 1, 0, 0, 0xFF, 0x5A] 4 0 0)) (fun t => decide (t.phase = .post)) = true := by
  decide

/-! ### The rows -/

/-- Length 4 and length `MAX_IN_LEN`, the declared length at the capacity. -/
theorem test_witness_HeaderRowsComplete :
    (4 ≤ (hdrCap 5 [0xA1, 5, 0, 0]).inLen.toNat ∧
      (hdrCap 5 [0xA1, 5, 0, 0]).inLen.toNat ≤ (hdrCap 5 [0xA1, 5, 0, 0]).params.maxInLen ∧
      (5#24).toNat ≤ (hdrCap 5 [0xA1, 5, 0, 0]).params.outCap.toNat) ∧
    (hdrLen 18874374 w1).inLen.toNat ≤ (hdrLen 18874374 w1).params.maxInLen := by decide

/-- The last byte of the input. -/
theorem test_witness_FlagsRowsComplete : bytesLeft 1 (top .A 1 [] [0xA1, 1, 0, 0, 0x80] 4 0 0) := by decide

theorem test_witness_LiteralRowCompletes :
    bytesLeft 1 (top .A 4 [] w1 7 0x40 0x40) ∧
    (top .A 4 [] w1 7 0x40 0x40).outCur.toNat < (top .A 4 [] w1 7 0x40 0x40).params.outCap.toNat := by decide

/-- Each of the six rows with exactly its bytes left and a distance equal to `out_cur`. -/
theorem test_witness_ReferenceRowsComplete :
    let s := top .A 400 [0xAB] w1 4 0x80 0x80
    (refOperands (.refaS 2 0) = some (3, 1) ∧ bytesLeft 2 s) ∧ (refOperands (.refaM 0 0) = some (17, 1) ∧ bytesLeft 3 s) ∧
    (refOperands (.refaL 0 0) = some (273, 1) ∧ bytesLeft 4 s) ∧ refOperands (.refbS 2 1) = some (2, 1) ∧
    refOperands (.refbM 0 1) = some (16, 1) ∧ refOperands (.refbL 0 1) = some (272, 1) ∧ 1 ≤ s.outCur.toNat := by decide

/-- With a byte left, and with none. -/
theorem test_witness_PaddingRowsComplete :
    (live .post .B 0 [] [0xB2, 0, 0, 0, 0x80] 4).inLen.toNat ≤ (live .post .B 0 [] [0xB2, 0, 0, 0, 0x80] 4).params.maxInLen ∧
    (live .post .B 0 [] [0xB2, 0, 0, 0] 4).inLen.toNat ≤ (live .post .B 0 [] [0xB2, 0, 0, 0] 4).params.maxInLen := by decide

/-- Distance 0, a distance one past the start of the output, and a distance equal to `out_cur`. -/
theorem test_witness_BadDistanceIsFatal :
    let s := top .B 4 [0xAB] [0xB2, 4, 0, 0, 0xC0, 0xAB, 0x02, 0x00] 6 0x40 0x40
    bytesLeft (Instr.byteCount (.refbS 2 0)) s ∧ refOperands (.refbS 2 0) = some (2, 0) ∧
    (refOperands (.refaS 2 1) = some (3, 2) ∧ s.outCur.toNat < 2 ∧ (Instr.refaS 2 1).appliesIn (.token .A true) = true) ∧
    refOperands (.refbS 2 1) = some (2, 1) ∧ 1 ≤ s.outCur.toNat := by decide

/-- A four-byte token with 0, 1, 2 and 3 bytes left. -/
theorem test_witness_CutTokenEndsLoop (n : Nat) (hn : n ∈ [5, 6, 7, 8]) :
    let s := top .A 4 [] w1 n 0x80 0x80
    refOperands (.refaL 0 0) = some (273, 1) ∧ s.inLen.toNat ≤ s.params.maxInLen ∧ s.inCur.toNat ≤ s.inLen.toNat ∧
    s.inLen.toNat - s.inCur.toNat < Instr.byteCount (.refaL 0 0) := by
  revert n; decide

/-! ### The frames -/

/-- An accepted header and one rejected by the allocation check. -/
theorem test_witness_HeaderRowsFrame :
    nextIs (exec (.hdrA 4) (hdr w1)) (fun t => decide (t.phase ≠ .error)) = true ∧
    nextIs (exec (.hdrB 5) (hdrCap 4 [0xB2, 5, 0, 0])) (fun t => decide (t.phase = .error)) = true := by decide

theorem test_witness_FlagsRowsFrame :
    (∃ t, exec (.flagsA 0x40) (top .A 4 [] w1 4 0 0) = .next t) ∧
    ∃ t, exec (.flagsB 0xC0) (top .B 4 [] [0xB2, 4, 0, 0, 0xC0] 4 0 0) = .next t := ⟨⟨_, rfl⟩, ⟨_, rfl⟩⟩

/-- A literal that is stored, and one with no byte left. -/
theorem test_witness_LiteralRowFrame :
    nextIs (exec (.lit 0xAB) (top .A 4 [] w1 5 0x40 0x40)) (fun t => decide (t.phase = .top ∧ t.outCur = 1)) = true ∧
    nextIs (exec (.lit 0) (top .A 1 [] [0xA1, 1, 0, 0, 0] 5 0 0x40)) (fun t => decide (t.phase = .post)) = true := by
  decide

/-- A reference that runs, one that is cut short and one with a bad distance. -/
theorem test_witness_ReferenceRowsFrame :
    refOperands (.refaS 2 0) = some (3, 1) ∧ refOperands (.refaL 0 0) = some (273, 1) ∧
    refOperands (.refbS 2 0) = some (2, 0) ∧
    nextIs (exec (.refaS 2 0) (top .A 4 [0xAB] w1 6 0x40 0x20)) (fun t => decide (t.phase = .copy)) = true ∧
    nextIs (exec (.refaL 0 0) (top .A 4 [0xAB] w1 6 0x40 0x20)) (fun t => decide (t.phase = .post)) = true ∧
    nextIs (exec (.refbS 2 0) (top .B 4 [0xAB] w1 6 0x40 0x20)) (fun t => decide (t.phase = .error)) = true := by decide

theorem test_witness_PaddingRowsFrame :
    (Instr.padb2 0 0).appliesIn .trailer = true ∧ (Instr.padb3 0 0).appliesIn .trailer = true ∧
    nextIs (exec (.padb2 0 0) (live .post .B 0 [] [0xB2, 0, 0, 0] 4)) (fun t => decide (t.inCur = 6)) = true ∧
    nextIs (exec (.padb3 0 0) (live .post .B 0 [] [0xB2, 0, 0, 0, 0x80] 4)) (fun t => decide (t.inCur = 7)) = true := by
  decide

/-! ### The host's side -/

/-- The word 1 and the word 2, in a state of every phase. -/
theorem test_witness_StartIsAcceptedWhenNotBusy :
    (1#32).getLsbD 0 = true ∧ (2#32).getLsbD 0 = false ∧ resting.phase = .idle ∧ doneO2.phase = .done ∧
    errorC7.phase = .error ∧ (hdr w1).phase = .hdr ∧ (top .A 4 [] w1 4 0 0).phase = .top ∧
    (copying .A 4 [0xAB] w1 8 3 1).phase = .copy ∧ (live .post .A 4 [] w1 8).phase = .post := by decide

/-- A state of every phase and of every error code (R25, R32, R220), and both sides of the `IN_LEN` write. -/
theorem test_witness_RegisterMap :
    (resting.phase = .idle ∧ resting.status.err = .noError ∧ (hdr w1).phase = .hdr ∧ (top .A 4 [] w1 4 0 0).phase = .top ∧
      (copying .A 4 [0xAB] w1 8 3 1).phase = .copy ∧ (live .post .A 4 [] w1 8).phase = .post ∧ doneO2.phase = .done ∧
      errorC7.phase = .error ∧ errorC7.status.err = .badDistance) ∧
    (nextIs (step (hdr [0xA1, 0, 0])) (fun t => decide (t.status.err = .formatSize)) = true ∧
      nextIs (step (hdr [0x99, 0, 0, 0])) (fun t => decide (t.status.err = .formatTag)) = true ∧
      nextIs (step (hdrCap 4 [0xA1, 5, 0, 0])) (fun t => decide (t.status.err = .alloc)) = true) ∧
    resting.phase.busy = false ∧ (hdr w1).phase.busy = true ∧
    nextIs (hostMove (.writeReg 0x08 .word 0xFFFFFFFF) resting) (fun t => decide (t.inLen = 0xFFFFFFFF)) = true := by decide

/-- The first and the last reserved offset. -/
theorem test_witness_ReservedSpaceReadsZero :
    nextIs (hostMove (.readReg 0x20 .word) (hdr w1)) (fun t => decide (t = hdr w1)) = true ∧
    nextIs (hostMove (.writeReg 0x3C .word 1) (hdr w1)) (fun t => decide (t = hdr w1)) = true ∧
    (1#32).getLsbD 0 = (0xFFFFFFFF#32).getLsbD 0 := by decide

/-- A read of each kind, the one of `OUT_MEM` at rest and while BUSY. -/
theorem test_witness_HostReadsChangeNothing :
    (HostMove.readReg 0x04 .word).reads = true ∧ (HostMove.readIn 0).reads = true ∧ (HostMove.readOut 0).reads = true ∧
    resting.phase.busy = false ∧
    (∃ t, hostMove (.readReg 0x04 .word) resting = .next t) ∧ (∃ t, hostMove (.readIn 0) (hdr w1) = .next t) ∧
    (∃ t, hostMove (.readOut 0) resting = .next t) ∧ ∃ t, hostMove (.readOut 0) (hdr w1) = .next t :=
  ⟨rfl, rfl, rfl, rfl, ⟨_, rfl⟩, ⟨_, rfl⟩, ⟨_, rfl⟩, ⟨_, rfl⟩⟩

/-- The last addresses that exist. -/
theorem test_witness_HostMemoryMoves :
    18874373 < resting.params.maxInLen ∧ 0xFFFFFE < resting.params.outCap.toNat ∧ resting.phase.busy = false := by decide

theorem test_witness_MissingHostMovesAreRefused :
    AccessWidth.half ≠ .word ∧ AccessWidth.byte ≠ .word ∧ 0x3F % 4 ≠ 0 ∧ 0x40 % 4 = 0 ∧ 64 ≤ 0x40 ∧
    (hdr w1).phase.busy = true := by decide

theorem test_witness_DoneIsALevel :
    resting.phase = .idle ∧ (hdr w1).phase.busy = true ∧ doneO2.phase.busy = false ∧ doneSignal doneO2 = true ∧
    doneSignal errorC7 = true := by decide

/-! ### Whole-machine rules and headline results -/

/-- Past HDR, and with a warning already set. -/
theorem test_witness_BlockLeavesItsInputs :
    (∃ t, blockStep (copying .A 4 [0xAB] w1 8 3 1) = .next t) ∧ (copying .A 4 [0xAB] w1 8 3 1).phase ≠ .hdr ∧
    (∃ t, blockStep doneO2 = .next t) ∧ doneO2.status.warnOverrun = true ∧ doneO2.status.warnTrailing = true :=
  ⟨⟨_, rfl⟩, by decide, ⟨_, rfl⟩, rfl, rfl⟩

/-- A step that writes, one that does not, and the two outcomes of HDR with a cursor left over from before. -/
theorem test_witness_OutputIsWrittenAtTheCursor :
    nextIs (blockStep (copying .A 4 [0xAB] w1 8 3 1)) (fun t => decide (t.outCur = 2)) = true ∧
    nextIs (blockStep (top .A 4 [0xAB] w1 6 0x40 0x40)) (fun t => decide (t.outCur = 1)) = true ∧
    nextIs (blockStep { hdr w1 with outCur := 9 }) (fun t => decide (t.outCur = 0)) = true ∧
    nextIs (blockStep { hdr [0x99, 0, 0, 0] with outCur := 9 }) (fun t => decide (t.outCur = 9)) = true := by decide

/-- An iteration that consumes, and one that ends the loop. -/
theorem test_witness_IterationConsumesOrEnds :
    nextIs (blockStep (top .A 4 [] w1 4 0 0)) (fun t => decide (t.inCur = 6)) = true ∧
    nextIs (blockStep (top .A 4 [] w1 8 0 0)) (fun t => decide (t.phase = .post)) = true ∧
    (top .A 4 [] w1 8 0 0).inCur.toNat ≤ (top .A 4 [] w1 8 0 0).inLen.toNat := by decide

/-- START takes the block out of DONE, reset out of ERROR. -/
theorem test_witness_OnlyStartOrResetLeavesRest :
    doneO2.phase.busy = false ∧
    nextIs (step { doneO2 with agenda := [.host (.writeReg 0x00 .word 1)] }) (fun t => decide (t.phase = .hdr)) = true ∧
    nextIs (step { errorC7 with agenda := [.host .reset] }) (fun t => decide (t.phase = .idle)) = true := by decide

theorem test_witness_OnlyResetDisturbsADecode :
    (hdr w1).phase.busy = true ∧ HostMove.writeReg 0x08 .word 5 ≠ .reset ∧
    ∃ t, hostMove (.writeReg 0x08 .word 5) (hdr w1) = .next t := ⟨rfl, by decide, ⟨_, rfl⟩⟩

/-- A block's turn and a host's turn that write a memory. -/
theorem test_witness_StepKeepsMemoriesCanonical :
    MemoriesWf (copying .A 4 [0xAB] w1 8 3 1) ∧ (∃ t, step (copying .A 4 [0xAB] w1 8 3 1) = .next t) ∧
    MemoriesWf { resting with agenda := [.host (.writeOut 7 1)] } ∧
    ∃ t, step { resting with agenda := [.host (.writeOut 7 1)] } = .next t :=
  ⟨by decide, ⟨_, rfl⟩, by decide, ⟨_, rfl⟩⟩

theorem test_witness_StepKeepsInvariant :
    (copying .A 4 [0xAB] w1 8 3 1).Inv ∧ ∃ t, step (copying .A 4 [0xAB] w1 8 3 1) = .next t :=
  ⟨test_inv_copy, ⟨_, rfl⟩⟩

theorem test_witness_BlockNeverFaults :
    (top .A 4 [] w1 4 0 0).Inv ∧ blocksTurn (top .A 4 [] w1 4 0 0) = true ∧
    blocksTurn { top .A 4 [] w1 4 0 0 with agenda := [.block] } = true := ⟨test_inv_top, rfl, rfl⟩

theorem test_witness_WarningSetsAreFive :
    (doneO2.Inv ∧ doneO2.phase = .done ∧ warningList doneO2.status = [.overrun, .trailingData]) ∧
    errorC7.Inv ∧ errorC7.phase = .error := ⟨⟨test_inv_done, rfl, rfl⟩, test_inv_error, rfl⟩

theorem test_witness_CopyRepeatsWithPeriodDist :
    let s := copying .A 4 [0xAB] w1 8 3 1
    s.Inv ∧ s.agenda = [] ∧ s.phase = .copy ∧ s.count.toNat = 3 ∧ s.dist.toNat = 1 := ⟨test_inv_copy, rfl, rfl, rfl, rfl⟩

/-- A decode that runs, and one whose header is rejected. -/
theorem test_witness_DecodeEndsWithinBound :
    ((hdr w1).Inv ∧ (hdr w1).agenda = [] ∧ (hdr w1).phase = .hdr ∧ 4 ≤ (hdr w1).inLen.toNat) ∧
    nextIs (run 1 (hdr w1)) (fun t => decide (t.phase = .top)) = true ∧
    nextIs (run 1 (hdr [0x99, 0, 0, 0])) (fun t => decide (t.phase = .error)) = true :=
  ⟨⟨test_inv_hdr, rfl, rfl, by decide⟩, by decide, by decide⟩

/-- The same stream with other bytes past it, other unspecified registers and another `OUT_MEM`. -/
theorem test_witness_ObservationDependsOnStreamAlone :
    let s' := { hdr w1 with inMem := cells 0 (w1 ++ [0xEE]), outMem := [(0, 7)], flags := 0xFF, mask := 0x33 }
    (hdr w1).Inv ∧ s'.Inv ∧ (hdr w1).agenda = [] ∧ s'.agenda = [] ∧ (hdr w1).phase = .hdr ∧ s'.phase = .hdr ∧
    sameStream (hdr w1) s' ∧ (∃ t, run 1 (hdr w1) = .next t) ∧ ∃ t, run 1 s' = .next t :=
  ⟨test_inv_hdr, ⟨by decide, by decide, by decide, by decide, by decide, by decide, by decide, by decide⟩, rfl, rfl, rfl, rfl,
    ⟨rfl, rfl, by decide⟩, ⟨_, rfl⟩, ⟨_, rfl⟩⟩

/-- Vector W7 ends in ERROR in one step, and writes nothing. -/
theorem test_witness_DecodeLeavesOutputPastOutLen :
    let s := hdr [0x99, 1, 0, 0, 0, 0x41]
    s.Inv ∧ s.agenda = [] ∧ s.phase = .hdr ∧ nextIs (run 1 s) (fun t => decide (t.phase.finished = true)) = true :=
  ⟨⟨by decide, by decide, by decide, by decide, by decide, by decide, by decide, by decide⟩, rfl, rfl, by decide⟩

/-- Vector H6 is a well-formed stream. -/
theorem test_witness_WellFormedStreamsDecodeExactly : WellFormedStream (hdr [0xA1, 0, 0, 0]) := by
  refine ⟨2, ?_⟩
  obtain ⟨t, ht, hp⟩ := next_of_nextIs (o := run 2 (hdr [0xA1, 0, 0, 0]))
    (ok := fun t => decide (t.phase = .post ∧ t.status.warnOverrun = false ∧ t.outCur = t.declLen) &&
      nextIs (step t) fun u => decide (u.inCur = u.inLen)) (by decide)
  rw [Bool.and_eq_true, decide_eq_true_eq] at hp
  obtain ⟨u, hu, hc⟩ := next_of_nextIs hp.2
  exact ⟨t, u, ht, hp.1.1, hp.1.2.1, hp.1.2.2, hu, of_decide_eq_true hc⟩

/-- A stream of three bytes is none, and its decode ends. -/
theorem test_witness_WellFormedStreamsDecodeExactly_other :
    let s := hdr [0xA1, 0, 0]
    ¬ WellFormedStream s ∧ ∃ t, run 1 s = .next t ∧ t.phase.finished = true := by
  intro s
  refine ⟨?_, raiseFault .formatSize s, rfl, rfl⟩
  rintro ⟨n, t, u, hr, hp, -⟩
  cases n with
  | zero =>
    obtain rfl : s = t := by injection hr
    cases hp
  | succ n =>
    have h1 : run (n + 1) s = run n (raiseFault .formatSize s) := rfl
    rw [h1, run_of_stays rfl] at hr
    obtain rfl : raiseFault .formatSize s = t := by injection hr
    cases hp

end Sys2Proof.Tests
end

section
namespace Sys2Proof.Proofs
open Sys2Proof Sys2Proof.Machine

/-! ## The negation of variant B's flags byte (R13, R122) -/

/-- R13's formula is the negation of bytes, so that the library's facts about `-x` speak of `neg8`. -/
theorem neg8_eq_neg (x : Byte) : neg8 x = -x := by
  apply BitVec.eq_of_toNat_eq
  simp [neg8, BitVec.toNat_neg]

theorem neg8_toNat (x : Byte) : (neg8 x).toNat = (256 - x.toNat) % 256 := by
  rw [neg8_eq_neg, BitVec.toNat_neg]

@[simp] theorem neg8_neg8 (x : Byte) : neg8 (neg8 x) = x := by
  rw [neg8_eq_neg, neg8_eq_neg, BitVec.neg_neg]

/-- The negation is one more than the complement, and so never the complement. -/
theorem neg8_ne_not (x : Byte) : neg8 x ≠ ~~~x := by
  have hsucc : neg8 x = ~~~x + 1#8 := by rw [neg8_eq_neg, BitVec.neg_eq_not_add]
  rw [hsucc]
  bv_omega

/-- Settles O11: `neg8` is the negation of bytes, and `-x = ~~~x + 1` is never `~~~x`. -/
theorem flagsNegationIsArithmetic : Obligations.FlagsNegationIsArithmetic :=
  ⟨fun x => ⟨neg8_toNat x, neg8_neg8 x, neg8_ne_not x⟩, by decide⟩

end Sys2Proof.Proofs
end

section
namespace Sys2Proof.Proofs
open Sys2Proof Sys2Proof.Machine

/-! ## What the invariant says in each phase -/

/-- IDLE and HDR: nothing is shown of a decode yet. -/
structure Fresh (s : State) : Prop where
  legal : s.params.Legal
  memories : MemoriesWf s
  status : s.status = Status.clear
  declLen : s.declLen = 0
  outLen : s.outLen = 0
  inConsumed : s.inConsumed = 0

/-- TOP, COPY and POST: what the invariant says in all three, the cursors being live. -/
structure Live (s : State) : Prop where
  legal : s.params.Legal
  memories : MemoriesWf s
  err : s.status.err = .noError
  valid : s.status.variantValid = true
  variantB : s.status.variantB = variantBit s.variant
  warnTrunc : s.status.warnTrunc = false
  warnTrailing : s.status.warnTrailing = false
  outLen : s.outLen = 0
  inConsumed : s.inConsumed = 0
  inCur_ge : 4 ≤ s.inCur.toNat
  inCur_le : s.inCur.toNat ≤ s.inLen.toNat
  inLen_le : s.inLen.toNat ≤ s.params.maxInLen
  outCur_le : s.outCur.toNat ≤ s.declLen.toNat
  declLen_le : s.declLen.toNat ≤ s.params.outCap.toNat
  mask : s.mask ∈ [0x00#8, 0x80#8, 0x40#8, 0x20#8, 0x10#8, 0x08#8, 0x04#8, 0x02#8, 0x01#8]

/-- In IDLE and HDR the invariant is `Fresh`. -/
theorem inv_iff_of_idle_or_hdr {s : State} (hp : s.phase = .idle ∨ s.phase = .hdr) : s.Inv ↔ Fresh s := by
  constructor
  · rintro ⟨hl, hm, ⟨-, hclear, hdecl, hres⟩, -⟩
    have hc := hclear hp
    obtain ⟨ho, hi⟩ := hres (hp.imp_right fun hh => by rw [hh]; rfl)
    exact ⟨hl, hm, hc, hdecl (by rw [hc]; rfl), ho, hi⟩
  · rintro ⟨hl, hm, hc, hd, ho, hi⟩
    refine ⟨hl, hm, ?_⟩
    rcases hp with hp | hp <;>
      simp [StatusWf, VariantWf, CursorsWf, CopyWf, WarningsWf, ErrorsWf, hc, hd, ho, hi, hp, Status.clear, Phase.decoding]

/-- The phases in which the cursors are live are BUSY, and HDR is the only other BUSY phase. -/
theorem decoding_iff (p : Phase) : p.decoding = true ↔ p.busy = true ∧ p ≠ .hdr := by
  cases p <;> decide

theorem ne_of_decoding {p : Phase} (h : p.decoding = true) : p ≠ .idle ∧ p ≠ .hdr ∧ p ≠ .done ∧ p ≠ .error := by
  cases p <;> revert h <;> decide

theorem live_of_inv {s : State} (hp : s.phase.decoding = true) (h : s.Inv) : Live s := by
  obtain ⟨hl, hm, ⟨herr, -, -, hres⟩, ⟨hvalid, hvar⟩, hcur, -, ⟨hwarn, -⟩, -⟩ := h
  obtain ⟨⟨hi4, hile, him⟩, ⟨hole, hom⟩, hmask⟩ := hcur hp
  obtain ⟨ho, hi⟩ := hres (.inr ((decoding_iff _).mp hp).1)
  obtain ⟨ht, htr⟩ := hwarn hp
  have hv := hvalid (.inl hp)
  have he : s.status.err = .noError := by
    by_contra hne
    exact (ne_of_decoding hp).2.2.2 (herr.mp hne)
  exact ⟨hl, hm, he, hv, hvar hv, ht, htr, ho, hi, hi4, hile, him, hole, hom, hmask⟩

/-- What `Live` leaves out of the invariant: the copy reads, and what an overrun says of the output cursor. -/
theorem Live.inv {s : State} (h : Live s) (hp : s.phase.decoding = true) (hcopy : CopyWf s)
    (hrun : s.phase = .copy ∧ s.status.warnOverrun = true → s.outCur.toNat + s.count.toNat = s.declLen.toNat)
    (hfull : (s.phase = .top ∨ s.phase = .post) ∧ s.status.warnOverrun = true → s.outCur = s.declLen) : s.Inv := by
  obtain ⟨hni, hnh, hnd, hne⟩ := ne_of_decoding hp
  have hstatus : StatusWf s := by
    simp [StatusWf, h.err, h.valid, h.outLen, h.inConsumed, hni, hnh, hne]
  have hvariant : VariantWf s := ⟨fun _ => h.valid, fun _ => h.variantB⟩
  have hcursors : CursorsWf s := fun _ =>
    ⟨⟨h.inCur_ge, h.inCur_le, h.inLen_le⟩, ⟨h.outCur_le, h.declLen_le⟩, h.mask⟩
  have hwarnings : WarningsWf s :=
    ⟨fun _ => ⟨h.warnTrunc, h.warnTrailing⟩, hrun, hfull, fun hd => absurd hd hnd, fun he => absurd he hne⟩
  have herrors : ErrorsWf s := by simp [ErrorsWf, h.err]
  exact ⟨h.legal, h.memories, hstatus, hvariant, hcursors, hcopy, hwarnings, herrors⟩

/-- In TOP and POST the invariant is `Live`, with the output complete after an overrun. -/
theorem inv_iff_of_top_or_post {s : State} (hp : s.phase = .top ∨ s.phase = .post) :
    s.Inv ↔ Live s ∧ (s.status.warnOverrun = true → s.outCur = s.declLen) := by
  have hd : s.phase.decoding = true := by rcases hp with hp | hp <;> rw [hp] <;> rfl
  have hc : s.phase ≠ .copy := by rcases hp with hp | hp <;> simp [hp]
  constructor
  · intro hs
    have ⟨_, _, _, _, _, _, ⟨_, _, hfull, _⟩, _⟩ := hs
    exact ⟨live_of_inv hd hs, fun ho => hfull ⟨hp, ho⟩⟩
  · rintro ⟨hlive, hfull⟩
    exact hlive.inv hd (fun hcopy => absurd hcopy hc) (fun ho => absurd ho.1 hc) fun ho => hfull ho.2

/-- In COPY the invariant is `Live`, with legal reads and the run filling the output after an overrun. -/
theorem inv_iff_of_copy {s : State} (hp : s.phase = .copy) :
    s.Inv ↔ Live s ∧ CopyWf s ∧
      (s.status.warnOverrun = true → s.outCur.toNat + s.count.toNat = s.declLen.toNat) := by
  have hd : s.phase.decoding = true := by rw [hp]; rfl
  constructor
  · intro hs
    have ⟨_, _, _, _, _, hcopy, ⟨_, hrun, _⟩, _⟩ := hs
    exact ⟨live_of_inv hd hs, hcopy, fun ho => hrun ⟨hp, ho⟩⟩
  · rintro ⟨hlive, hcopy, hrun⟩
    exact hlive.inv hd hcopy (fun ho => hrun ho.2) fun ho => by simp [hp] at ho

/-- In ERROR the invariant is about the parameters, the memories, `STATUS` and what the error recorded. -/
theorem inv_of_error {s : State} (hp : s.phase = .error) (hl : s.params.Legal) (hm : MemoriesWf s)
    (he : s.status.err ≠ .noError) (hdecl : s.status.variantValid = false → s.declLen = 0)
    (hvar : s.status.variantValid = true → s.status.variantB = variantBit s.variant)
    (hwarn : s.status.warnOverrun = false ∧ s.status.warnTrunc = false ∧ s.status.warnTrailing = false)
    (herr : ErrorsWf s) : s.Inv := by
  have hstatus : StatusWf s := ⟨iff_of_true he hp, by simp [hp], hdecl, by simp [hp, Phase.busy]⟩
  have hvariant : VariantWf s := ⟨by simp [hp, Phase.decoding], hvar⟩
  have hcursors : CursorsWf s := by simp [CursorsWf, hp, Phase.decoding]
  have hcopy : CopyWf s := by simp [CopyWf, hp]
  have hwarnings : WarningsWf s := by simp [WarningsWf, hp, hwarn, Phase.decoding]
  exact ⟨hl, hm, hstatus, hvariant, hcursors, hcopy, hwarnings, herr⟩

/-! ## The updates of a decode keep `Live` -/

theorem Live.advanceIn {n : Nat} {s : State} (h : Live s) (hn : s.inCur.toNat + n ≤ s.inLen.toNat) :
    Live (advanceIn n s) :=
  have hc := advanceIn_inCur_toNat hn
  { h with
    inCur_ge := by rw [hc]; exact Nat.le_add_right_of_le h.inCur_ge
    inCur_le := by rw [hc]; exact hn }

theorem Live.loadFlags {s : State} (h : Live s) (f : Byte) : Live (loadFlags f s) :=
  { h with mask := by rw [loadFlags_mask]; decide }

theorem Live.shiftMask {s : State} (h : Live s) : Live (shiftMask s) :=
  have shifts : ∀ m ∈ [0x00#8, 0x80#8, 0x40#8, 0x20#8, 0x10#8, 0x08#8, 0x04#8, 0x02#8, 0x01#8],
      m >>> 1 ∈ [0x00#8, 0x80#8, 0x40#8, 0x20#8, 0x10#8, 0x08#8, 0x04#8, 0x02#8, 0x01#8] := by decide
  { h with mask := shifts _ h.mask }

/-- The output cursor after a byte is appended short of the declared length: no wrap. -/
theorem putByte_outCur_toNat {b : Byte} {s : State} (h : s.outCur.toNat < s.declLen.toNat) :
    (putByte b s).outCur.toNat = s.outCur.toNat + 1 := by
  rw [putByte_outCur]
  bv_omega

theorem Live.putByte {s : State} (h : Live s) (hlt : s.outCur.toNat < s.declLen.toNat) (b : Byte) :
    Live (putByte b s) :=
  have hc := putByte_outCur_toNat (b := b) hlt
  have ⟨hiw, how, hib, hob⟩ := h.memories
  { h with
    memories := ⟨hiw, write_wf how _ _, hib, write_bound hob (hlt.trans_le h.declLen_le) b⟩
    outCur_le := by rw [hc]; exact hlt }

/-- `Live` does not look at the phase, and of the copy's registers at none. -/
theorem Live.deliver {s : State} (h : Live s) (l d : Nat) : Live (deliver l d s) := { h with }

theorem Live.clampLength {s : State} (h : Live s) : Live (clampLength s) := { h with }

theorem Live.beginCopy {s : State} (h : Live s) : Live (beginCopy s) := { h with }

theorem Live.countDown {s : State} (h : Live s) : Live (countDown s) := { h with }

theorem Live.gotoPost {s : State} (h : Live s) : Live (gotoPost s) := { h with }

/-! ## Phase HDR -/

/-- The header's size and tag errors: nothing has been accepted (R102, R103, R227). -/
theorem inv_raiseFault_of_fresh {s : State} (h : Fresh s) {c : ErrCode} (hc : c = .formatSize ∨ c = .formatTag) :
    (raiseFault c s).Inv := by
  have herr : ErrorsWf (raiseFault c s) := by
    rcases hc with rfl | rfl <;> simp [ErrorsWf, h.status, Status.clear]
  have hne : c ≠ .noError := by rcases hc with rfl | rfl <;> decide
  exact inv_of_error rfl h.legal h.memories hne (fun _ => h.declLen) (by simp [h.status, Status.clear])
    (by simp [h.status, Status.clear]) herr

/-- The allocation error, past the tag check (R105, R227). -/
theorem inv_raiseFault_alloc {s : State} (h : Fresh s) {v : Variant} {n : BitVec 24}
    (hn : s.params.outCap.toNat < n.toNat) : (raiseFault .alloc (acceptHeader v n s)).Inv :=
  inv_of_error rfl h.legal h.memories (by simp) (by simp) (by simp) (by simp [h.status, Status.clear])
    (by simpa [ErrorsWf] using hn)

/-- An accepted header begins the main loop with live cursors (R106). -/
theorem live_initDecode {s : State} (h : Fresh s) {v : Variant} {n : BitVec 24} (h4 : 4 ≤ s.inLen.toNat)
    (hmax : s.inLen.toNat ≤ s.params.maxInLen) (hn : n.toNat ≤ s.params.outCap.toNat) :
    Live (initDecode (acceptHeader v n s)) where
  legal := h.legal
  memories := h.memories
  err := by simp [h.status, Status.clear]
  valid := rfl
  variantB := rfl
  warnTrunc := by simp [h.status, Status.clear]
  warnTrailing := by simp [h.status, Status.clear]
  outLen := h.outLen
  inConsumed := h.inConsumed
  inCur_ge := le_rfl
  inCur_le := h4
  inLen_le := hmax
  outCur_le := Nat.zero_le _
  declLen_le := hn
  mask := List.mem_cons_self

theorem hdrStep_keeps_inv {s t : State} (hp : s.phase = .hdr) (hs : s.Inv) (h : hdrStep s = .next t) : t.Inv := by
  have hf := (inv_iff_of_idle_or_hdr (.inr hp)).mp hs
  rcases hdrStep_cases s with ⟨-, he⟩ | ⟨-, he⟩ | ⟨v, n, -, hn, he⟩ | ⟨v, n, hsize, hn, he⟩ <;>
    obtain rfl := Host.Outcome.next.inj (he.symm.trans h)
  · exact inv_raiseFault_of_fresh hf (.inl rfl)
  · exact inv_raiseFault_of_fresh hf (.inr rfl)
  · exact inv_raiseFault_alloc hf hn
  · rw [← Bool.not_eq_true, sizeBad_iff, not_or, Nat.not_lt, Nat.not_lt] at hsize
    refine (inv_iff_of_top_or_post (.inl rfl)).mpr ⟨live_initDecode hf hsize.1 hsize.2 hn, ?_⟩
    simp [hf.status, Status.clear]

/-! ## Phase TOP -/

/-- Leaving the loop (R120, R125, R140). -/
theorem inv_gotoPost {s : State} (h : Live s) (ho : s.status.warnOverrun = true → s.outCur = s.declLen) :
    (gotoPost s).Inv :=
  (inv_iff_of_top_or_post (.inr rfl)).mpr ⟨h.gotoPost, ho⟩

/-- A bad distance, found before any output is complete (R180, R227). -/
theorem inv_badDistance {s : State} (h : Live s) (ho : s.status.warnOverrun = false)
    (hlt : s.outCur.toNat < s.declLen.toNat) (l d : Nat) : (raiseFault .badDistance (deliver l d s)).Inv :=
  inv_of_error rfl h.legal h.memories (by simp) (by simp [h.valid]) (fun _ => h.variantB)
    ⟨ho, h.warnTrunc, h.warnTrailing⟩ (by simpa [ErrorsWf, h.valid] using hlt)

/-- A legal distance fits its register and points at a byte already produced (R180). -/
theorem dist_legal {s : State} {l d : Nat} (h0 : d ≠ 0) (hle : d ≤ s.outCur.toNat) (hmax : d ≤ 4096) :
    1 ≤ (deliver l d s).dist.toNat ∧ (deliver l d s).dist.toNat ≤ s.outCur.toNat ∧
      (deliver l d s).dist.toNat ≤ 4096 := by
  have hd : (deliver l d s).dist.toNat = d := Nat.mod_eq_of_lt (by omega)
  omega

/-- What becomes of a parsed back-reference, the output not being complete (R180 to R182). -/
theorem runRef_keeps_inv {l d : Nat} {s t : State} (hs : Live s) (ho : s.status.warnOverrun = false)
    (hlt : s.outCur.toNat < s.declLen.toNat) (h1 : 1 ≤ l) (hl : l ≤ 65808) (hd : d ≤ 4096)
    (h : runRef l d s = .next t) : t.Inv := by
  rcases runRef_cases l d s with ⟨-, he⟩ | ⟨h0, hle, hc, he⟩ | ⟨h0, hle, hc, he⟩ <;>
    obtain rfl := Host.Outcome.next.inj (he.symm.trans h)
  · exact inv_badDistance hs ho hlt l d
  · have hcount : (beginCopy (clampLength (deliver l d s))).count.toNat = spaceLeft s :=
      Nat.mod_eq_of_lt (by simp only [spaceLeft, deliver_declLen, deliver_outCur] at *; omega)
    have hsum : s.outCur.toNat + spaceLeft s = s.declLen.toNat := Nat.add_sub_cancel' hlt.le
    exact (inv_iff_of_copy rfl).mpr ⟨(hs.deliver l d).clampLength.beginCopy,
      fun _ => ⟨⟨by rw [hcount]; unfold spaceLeft; omega, by rw [hcount]; exact hsum.le⟩, dist_legal h0 hle hd⟩,
      fun _ => by rw [hcount]; exact hsum⟩
  · have hcount : (beginCopy (deliver l d s)).count.toNat = l := Nat.mod_eq_of_lt (by omega)
    have hfit : s.outCur.toNat + l ≤ s.declLen.toNat := by unfold spaceLeft at hc; omega
    exact (inv_iff_of_copy rfl).mpr ⟨(hs.deliver l d).beginCopy,
      fun _ => ⟨⟨by rw [hcount]; exact h1, by rw [hcount]; exact hfit⟩, dist_legal h0 hle hd⟩,
      fun hov => absurd (ho.symm.trans hov) (by decide)⟩

/-- The token of an iteration whose loop test has found room for output (R123 to R126). -/
theorem tokenStep_keeps_inv {s t : State} (hs : Live s) (ho : s.status.warnOverrun = false)
    (hlt : s.outCur.toNat < s.declLen.toNat) (h : tokenStep s = .next t) : t.Inv := by
  have hs' := hs.shiftMask
  have hno : s.status.warnOverrun = true → s.outCur = s.declLen := by simp [ho]
  rcases tokenStep_cases s with ⟨b, he⟩ | ⟨i, l, d, hi, hd, hl, h1, -, he⟩ <;> rw [he] at h
  · rcases exec_lit_next h with ⟨-, rfl⟩ | ⟨hin, -, rfl⟩
    · exact inv_gotoPost hs' hno
    · exact (inv_iff_of_top_or_post (.inl rfl)).mpr
        ⟨{ (hs'.advanceIn hin).putByte hlt b with }, fun hov => absurd (ho.symm.trans hov) (by decide)⟩
  · rcases exec_ref_next hi h with ⟨k, n, -, hk, rfl⟩ | ⟨hin, hr⟩
    · have hin : (shiftMask s).inCur.toNat + k ≤ (shiftMask s).inLen.toNat := by
        rwa [max_eq_right hs'.inCur_le] at hk
      exact inv_gotoPost { hs'.advanceIn hin with } hno
    · exact runRef_keeps_inv (hs'.advanceIn hin) ho hlt h1 hl hd hr

theorem topStep_keeps_inv {s t : State} (hp : s.phase = .top) (hs : s.Inv) (h : topStep s = .next t) : t.Inv := by
  obtain ⟨hl, hov⟩ := (inv_iff_of_top_or_post (.inl hp)).mp hs
  rcases topStep_next h with ⟨-, rfl⟩ | ⟨hlt, hin, hstep⟩
  · exact inv_gotoPost hl hov
  · have ho : s.status.warnOverrun = false := by
      by_contra hc
      rw [hov (Bool.not_eq_false _ ▸ hc)] at hlt
      exact lt_irrefl _ hlt
    rcases hstep with ⟨-, ht⟩ | ⟨-, f, ht⟩
    · exact tokenStep_keeps_inv hl ho hlt ht
    · exact tokenStep_keeps_inv ((hl.advanceIn hin).loadFlags f) ho hlt ht

/-! ## Phases COPY and POST -/

theorem copyStep_keeps_inv {s t : State} (hp : s.phase = .copy) (hs : s.Inv) (h : copyStep s = .next t) : t.Inv := by
  obtain ⟨hl, hcopy, hrun⟩ := (inv_iff_of_copy hp).mp hs
  obtain ⟨⟨h1, hfit⟩, hd1, hdle, hdmax⟩ := hcopy hp
  obtain ⟨-, -, rfl⟩ := copyStep_next h
  have hlt : s.outCur.toNat < s.declLen.toNat := by omega
  generalize outByte s (s.outCur.toNat - s.dist.toNat) = b
  have hlive := (hl.putByte hlt b).countDown
  have hc := putByte_outCur_toNat (b := b) hlt
  have hcount : (s.count - 1).toNat = s.count.toNat - 1 := by bv_omega
  rcases countDown_phase_cases (putByte b s) with ⟨h0, hph⟩ | ⟨h0, hph⟩
  · have hz : s.count.toNat - 1 = 0 := by rw [← hcount]; exact congrArg BitVec.toNat h0
    refine (inv_iff_of_top_or_post (.inl hph)).mpr ⟨hlive, fun ho => BitVec.eq_of_toNat_eq ?_⟩
    have := hrun ho
    show (putByte b s).outCur.toNat = s.declLen.toNat
    omega
  · have hz : s.count.toNat - 1 ≠ 0 := fun hz => h0 (BitVec.eq_of_toNat_eq (hcount.trans hz))
    have hsum : (putByte b s).outCur.toNat + (s.count - 1).toNat = s.outCur.toNat + s.count.toNat := by omega
    refine (inv_iff_of_copy hph).mpr ⟨hlive, fun _ => ⟨⟨?_, ?_⟩, hd1, ?_, hdmax⟩, fun ho => ?_⟩
    · exact hcount ▸ Nat.one_le_iff_ne_zero.mpr hz
    · exact hsum.trans_le hfit
    · exact hdle.trans (hc ▸ Nat.le_succ _)
    · exact hsum.trans (hrun ho)

/-- Completion, wherever the padding skip has left the input cursor (R203 to R206). -/
theorem inv_finish {s : State} (h : Live s) (ho : s.status.warnOverrun = true → s.outCur = s.declLen) (n : Nat) :
    (finish (advanceIn n s)).Inv := by
  have hstatus : StatusWf (finish (advanceIn n s)) := by
    simp [StatusWf, completionWarnings, h.err, h.valid, Phase.busy]
  have hvariant : VariantWf (finish (advanceIn n s)) := ⟨fun _ => h.valid, fun _ => h.variantB⟩
  have htrunc : (completionWarnings (advanceIn n s)).warnTrunc = true ↔ s.outCur.toNat < s.declLen.toNat := by
    simp only [completionWarnings, truncated, advanceIn_status, h.warnTrunc, Bool.false_or]
    exact decide_eq_true_iff
  have htrailing : (completionWarnings (advanceIn n s)).warnTrailing = true → s.outCur = s.declLen := by
    simp only [completionWarnings, trailing, advanceIn_status, h.warnTrailing, Bool.false_or, Bool.and_eq_true]
    exact fun hc => of_decide_eq_true hc.1
  have hwarnings : WarningsWf (finish (advanceIn n s)) :=
    ⟨by simp [Phase.decoding], by simp, by simp, fun _ => ⟨htrunc, ho, htrailing⟩, by simp⟩
  have herrors : ErrorsWf (finish (advanceIn n s)) := by simp [ErrorsWf, completionWarnings, h.err]
  exact ⟨h.legal, h.memories, hstatus, hvariant, by simp [CursorsWf, Phase.decoding], by simp [CopyWf], hwarnings, herrors⟩

theorem postStep_keeps_inv {s t : State} (hp : s.phase = .post) (hs : s.Inv) (h : postStep s = .next t) : t.Inv := by
  obtain ⟨hl, hov⟩ := (inv_iff_of_top_or_post (.inr hp)).mp hs
  obtain ⟨n, -, rfl⟩ := postStep_next h
  exact inv_finish hl hov n

theorem blockStep_keeps_inv {s t : State} (hs : s.Inv) (h : blockStep s = .next t) : t.Inv := by
  cases hp : s.phase <;> simp only [blockStep, hp] at h
  case hdr => exact hdrStep_keeps_inv hp hs h
  case top => exact topStep_keeps_inv hp hs h
  case copy => exact copyStep_keeps_inv hp hs h
  case post => exact postStep_keeps_inv hp hs h
  all_goals exact Host.Outcome.next.inj h ▸ hs

/-! ## The host's moves -/

/-- A register access that is no refusal is a whole, aligned word of the window (R58). -/
theorem regAccess_next {offset : Nat} {w : AccessWidth} {go : Out} {t : State} (h : regAccess offset w go = .next t) :
    w = .word ∧ offset % 4 = 0 ∧ offset < windowBytes ∧ go = .next t := by
  unfold regAccess at h
  split_ifs at h with hw ha ho
  exact ⟨not_not.mp hw, not_not.mp ha, not_le.mp ho, h⟩

theorem inAccess_next {s t : State} {a : Nat} {go : Out} (h : inAccess s a go = .next t) :
    a < s.params.maxInLen ∧ go = .next t := by
  unfold inAccess at h
  split_ifs at h with ha
  exact ⟨(inExists_iff _ _).mp ha, h⟩

theorem outAccess_next {s t : State} {a : Nat} {go : Out} (h : outAccess s a go = .next t) :
    a < s.params.outCap.toNat ∧ go = .next t := by
  unfold outAccess at h
  split_ifs at h with ha
  exact ⟨(outExists_iff _ _).mp ha, h⟩

theorem whenNotBusy_next {s t : State} {go : Out} (h : whenNotBusy s go = .next t) :
    s.phase.busy = false ∧ go = .next t := by
  unfold whenNotBusy at h
  split_ifs at h with hb
  exact ⟨Bool.eq_false_iff.mpr hb, h⟩

/-- Everything a register write can do (R100, R26, R31): START, `IN_LEN`, or nothing. -/
theorem regWrite_cases (s : State) (offset : Nat) (v : Word) :
    (s.phase.busy = false ∧ regWrite s offset v = start s) ∨
      (s.phase.busy = false ∧ regWrite s offset v = { s with inLen := v }) ∨ regWrite s offset v = s := by
  unfold regWrite requestStart
  split
  · split_ifs with hv hb
    · exact .inr (.inr rfl)
    · exact .inl ⟨Bool.eq_false_iff.mpr hb, rfl⟩
    · exact .inr (.inr rfl)
  · split_ifs with hb
    · exact .inr (.inr rfl)
    · exact .inr (.inl ⟨Bool.eq_false_iff.mpr hb, rfl⟩)
  · exact .inr (.inr rfl)

theorem inv_start {s : State} (hs : s.Inv) : (start s).Inv := by
  obtain ⟨hl, hm, -⟩ := hs
  exact (inv_iff_of_idle_or_hdr (.inr rfl)).mpr ⟨hl, hm, rfl, rfl, rfl, rfl⟩

theorem inv_writeInLen {s : State} (hb : s.phase.busy = false) (hs : s.Inv) (v : Word) : { s with inLen := v }.Inv := by
  obtain ⟨hl, hm, hst, hv, -, hrest⟩ := hs
  have hd : s.phase.decoding ≠ true := fun hd => Bool.false_ne_true (hb.symm.trans ((decoding_iff _).mp hd).1)
  exact ⟨hl, hm, hst, hv, fun h => absurd h hd, hrest⟩

/-- Reset leaves memories that list nothing and registers as at `State.reset`, under the block's own parameters (R250). -/
theorem inv_assertReset {s : State} (hl : s.params.Legal) : (assertReset s).Inv :=
  (inv_iff_of_idle_or_hdr (.inl rfl)).mpr ⟨hl, by simp [MemoriesWf, State.reset, Memory.wf], rfl, rfl, rfl, rfl⟩

theorem hostMove_keeps_inv {m : HostMove} {s t : State} (hs : s.Inv) (h : hostMove m s = .next t) : t.Inv := by
  have ⟨hl, ⟨hiw, how, hib, hob⟩, hrest⟩ := hs
  cases m with
  | writeIn a b =>
    obtain ⟨-, h⟩ := whenNotBusy_next h
    obtain ⟨ha, h⟩ := inAccess_next h
    obtain rfl := Host.Outcome.next.inj h
    exact ⟨hl, ⟨write_wf hiw a b, how, write_bound hib ha b, hob⟩, hrest⟩
  | readIn a =>
    obtain ⟨-, h⟩ := inAccess_next h
    obtain rfl := Host.Outcome.next.inj h
    exact hs
  | writeOut a b =>
    obtain ⟨-, h⟩ := whenNotBusy_next h
    obtain ⟨ha, h⟩ := outAccess_next h
    obtain rfl := Host.Outcome.next.inj h
    exact ⟨hl, ⟨hiw, write_wf how a b, hib, write_bound hob ha b⟩, hrest⟩
  | readOut a =>
    obtain ⟨-, h⟩ := outAccess_next h
    obtain rfl := Host.Outcome.next.inj h
    unfold hostReadOut
    split <;> exact hs
  | readReg offset w =>
    obtain ⟨-, -, -, h⟩ := regAccess_next h
    obtain rfl := Host.Outcome.next.inj h
    exact hs
  | writeReg offset w v =>
    obtain ⟨-, -, -, h⟩ := regAccess_next h
    obtain rfl := Host.Outcome.next.inj h
    rcases regWrite_cases s offset v with ⟨-, he⟩ | ⟨hb, he⟩ | he <;> rw [he]
    · exact inv_start hs
    · exact inv_writeInLen hb hs v
    · exact hs
  | reset =>
    obtain rfl := Host.Outcome.next.inj h
    exact inv_assertReset hl

/-- Settles O53: each phase's step keeps the invariant, and so does each host move. -/
theorem stepKeepsInvariant : Obligations.StepKeepsInvariant := by
  intro s t hs h
  have hs' : (turnTaken s).Inv := hs
  match ha : s.agenda with
  | [] => exact blockStep_keeps_inv hs (step_of_agenda_nil ha ▸ h)
  | .block :: r => exact blockStep_keeps_inv hs' (step_of_block_turn ha ▸ h)
  | .host m :: r => exact hostMove_keeps_inv hs' (step_of_host_turn ha ▸ h)

/-- Settles O52: nothing is shown of a decode at reset, and the parameters are legal. -/
theorem resetMeetsInvariant : Obligations.ResetMeetsInvariant :=
  (inv_iff_of_idle_or_hdr (.inl rfl)).mpr
    ⟨config_params_legal, by simp [MemoriesWf, State.reset, Memory.wf], rfl, rfl, rfl, rfl⟩

end Sys2Proof.Proofs
end

section
namespace Sys2Proof.Proofs
open Sys2Proof Sys2Proof.Machine

/-! ## Where the fields of `STATUS` stand (R25) -/

/-- The bits of the `STATUS` word, field by field from bit 0 up. -/
theorem statusWord_getLsbD (p : Phase) (t : Status) (i : Nat) :
    (statusWord p t).getLsbD i =
      if i < 2 then p.code.getLsbD i
      else if i < 4 then false
      else if i < 8 then t.err.code.getLsbD (i - 4)
      else if i = 8 then t.warnOverrun
      else if i = 9 then t.warnTrunc
      else if i = 10 then t.warnTrailing
      else if i = 12 then t.variantB
      else if i = 13 then t.variantValid
      else false := by
  have hbits : (statusWord p t).getLsbD i = BitVec.getLsbD (w := 18 + 1 + 1 + 1 + 1 + 1 + 1 + 4 + 2 + 2)
      (0#18 ++ BitVec.ofBool t.variantValid ++ BitVec.ofBool t.variantB ++ 0#1 ++ BitVec.ofBool t.warnTrailing ++
        BitVec.ofBool t.warnTrunc ++ BitVec.ofBool t.warnOverrun ++ t.err.code ++ 0#2 ++ p.code) i := rfl
  simp only [hbits, BitVec.getLsbD_append, BitVec.getLsbD_ofBool, BitVec.getLsbD_zero, Nat.sub_sub]
  grind (splits := 24)

theorem statusWord_state (p : Phase) (t : Status) : (statusWord p t).extractLsb' 0 2 = p.code := by
  ext i hi
  rw [BitVec.getElem_extractLsb', statusWord_getLsbD, if_pos (by omega), Nat.zero_add, BitVec.getLsbD_eq_getElem hi]

theorem statusWord_err (p : Phase) (t : Status) : (statusWord p t).extractLsb' 4 4 = t.err.code := by
  ext i hi
  rw [BitVec.getElem_extractLsb', statusWord_getLsbD, if_neg (by omega), if_neg (by omega), if_pos (by omega),
    Nat.add_sub_cancel_left, BitVec.getLsbD_eq_getElem hi]

/-- Reserved bits of `STATUS` are 0, in any field made of them (R25, R31). -/
theorem statusWord_reserved (p : Phase) (t : Status) {a n : Nat}
    (h : ∀ i < n, 2 ≤ a + i ∧ a + i < 4 ∨ a + i = 11 ∨ 14 ≤ a + i) : (statusWord p t).extractLsb' a n = 0 := by
  ext i hi
  have hres := h i hi
  have hbit : (statusWord p t).getLsbD (a + i) = false := by
    rw [statusWord_getLsbD]
    grind
  simpa using hbit

/-- A field zero-extended to 32 bits leaves the bits above it 0 (R27, R28, R30). -/
theorem setWidth_reserved (x : BitVec 24) : (x.setWidth 32 : Word).extractLsb' 24 8 = 0 := by
  ext i hi
  simp

/-! ## Accesses of the register window -/

/-- A whole, aligned word of the window reads as `regRead` says (R58). -/
theorem hostMove_readReg {offset : Nat} (ha : offset % 4 = 0) (ho : offset < windowBytes) (s : State) :
    hostMove (.readReg offset .word) s = .next { s with hostData := regRead s offset } := by
  simp [hostMove, regAccess, ha, ho]

/-- A whole, aligned word of the window is written as `regWrite` says (R58). -/
theorem hostMove_writeReg {offset : Nat} (ha : offset % 4 = 0) (ho : offset < windowBytes) (v : Word) (s : State) :
    hostMove (.writeReg offset .word v) s = .next (regWrite s offset v) := by
  simp [hostMove, regAccess, ha, ho]

/-- Only `CTRL` and `IN_LEN` take writes (R31). -/
theorem regWrite_readOnly {offset : Nat} (h0 : offset ≠ 0x00) (h8 : offset ≠ 0x08) (s : State) (v : Word) :
    regWrite s offset v = s := by
  unfold regWrite
  split
  · exact absurd rfl h0
  · exact absurd rfl h8
  · rfl

/-- Past `CAP_OUT` the window reads 0 (R31). -/
theorem regRead_reserved {offset : Nat} (h : 0x20 ≤ offset) (s : State) : regRead s offset = 0 := by
  unfold regRead
  split
  case h_8 => rfl
  all_goals exact absurd h (by decide)

/-- `CTRL` acts by its bit 0 alone: START or nothing (R24, R31). -/
theorem regWrite_ctrl (s : State) (v : Word) : regWrite s 0x00 v = if v.getLsbD 0 then requestStart s else s := rfl

theorem regWrite_inLen (s : State) (v : Word) :
    regWrite s 0x08 v = if s.phase.busy then s else { s with inLen := v } := rfl

/-! ## The statements about the register window -/

/-- The numbers of `STATE` (R32). -/
theorem phase_code_values (p : Phase) :
    (p = .idle → p.code = 0) ∧ (p = .hdr ∨ p = .top ∨ p = .copy ∨ p = .post → p.code = 1) ∧
      (p = .done → p.code = 2) ∧ (p = .error → p.code = 3) := by
  cases p <;> decide

/-- The numbers of `ERR` (R220). -/
theorem errCode_code_values (e : ErrCode) :
    (e = .noError → e.code = 0) ∧ (e = .formatSize → e.code = 1) ∧ (e = .formatTag → e.code = 2) ∧
      (e = .alloc → e.code = 3) ∧ (e = .badDistance → e.code = 4) := by
  cases e <;> decide

/-- Settles O38: each register is read through `regRead`, the fields of `STATUS` stand where `statusWord_getLsbD` puts
them, and of these registers only `IN_LEN` takes a write. -/
theorem registerMap : Obligations.RegisterMap := by
  intro s v
  have hread {offset : Nat} (ha : offset % 4 = 0) (ho : offset < windowBytes) := hostMove_readReg ha ho s
  have hwrite {offset : Nat} (ha : offset % 4 = 0) (ho : offset < windowBytes) := hostMove_writeReg ha ho v s
  have hbit := statusWord_getLsbD s.phase s.status
  rw [statusWord_state, statusWord_err]
  refine ⟨⟨?_, ?_, ?_, ?_, ?_, ?_, ?_, ?_⟩, phase_code_values s.phase, errCode_code_values s.status.err,
    ⟨rfl, rfl, hbit 8, hbit 9, hbit 10, hbit 12, hbit 13⟩, fun hb => ?_, fun hb => ?_, fun k hk => ?_⟩
  iterate 8 exact hread rfl (by decide)
  · rw [hwrite rfl (by decide), regWrite_inLen, hb]; rfl
  · rw [hwrite rfl (by decide), regWrite_inLen, hb]; rfl
  · rw [hwrite (by omega) (by unfold windowBytes; omega), regWrite_readOnly (by omega) (by omega)]

/-- Settles O39: the reserved offsets read 0, the reserved bits are 0, only `CTRL` and `IN_LEN` take writes, and `CTRL`
looks at bit 0. -/
theorem reservedSpaceReadsZero : Obligations.ReservedSpaceReadsZero := by
  intro s v w k
  refine ⟨fun h8 h16 => ⟨?_, ?_⟩, ⟨?_, ?_, ?_, setWidth_reserved _, setWidth_reserved _, setWidth_reserved _, rfl⟩,
    fun hk => ?_, fun hbit => ?_⟩
  · rw [hostMove_readReg (by omega) (by unfold windowBytes; omega), regRead_reserved (by omega)]
  · rw [hostMove_writeReg (by omega) (by unfold windowBytes; omega), regWrite_readOnly (by omega) (by omega)]
  · exact statusWord_reserved _ _ (by omega)
  · exact statusWord_reserved _ _ (by omega)
  · exact statusWord_reserved _ _ (by omega)
  · rw [hostMove_writeReg (by omega) (by unfold windowBytes; omega), regWrite_readOnly (by omega) (by omega)]
  · rw [hostMove_writeReg rfl (by decide), hostMove_writeReg rfl (by decide), regWrite_ctrl, regWrite_ctrl, hbit]

/-- Settles O44: the values of `State.reset`, read through the window. -/
theorem resetValues : Obligations.ResetValues :=
  ⟨rfl, rfl, rfl, rfl, rfl, rfl, rfl, rfl, rfl, rfl⟩

/-- Settles O45: `done` and `STATE` are views of the one phase, and START leaves IDLE, DONE or ERROR for HDR. -/
theorem doneIsALevel : Obligations.DoneIsALevel := by
  refine ⟨fun s => ⟨?_, fun h => ?_, fun hb => ?_⟩, rfl⟩
  · have hcode : (regRead s 0x04).extractLsb' 0 2 = s.phase.code := statusWord_state s.phase s.status
    rw [hcode, doneSignal]
    cases s.phase <;> decide
  · rcases h with h | h
    · rw [doneSignal, h]; rfl
    · exact not_finished_of_busy h
  · rw [requestStart, hb]; rfl

/-- Settles O16: the two laws of `step`, the turn taken off. -/
theorem stepTakesTheNextTurn : Obligations.StepTakesTheNextTurn := by
  refine fun s => ⟨step_of_agenda_nil, fun r h => ?_, fun m r h => ?_⟩
  · rw [step_of_block_turn h, turnTaken, h, List.tail_cons]
  · rw [step_of_host_turn h, turnTaken, h, List.tail_cons]

end Sys2Proof.Proofs
end

section
namespace Sys2Proof.Proofs
open Sys2Proof Sys2Proof.Machine

/-! ## Whose step it is -/

theorem turnTaken_of_agenda_nil {s : State} (h : s.agenda = []) : turnTaken s = s := by
  rw [turnTaken, h, List.tail_nil, ← h]

/-- The block's turn, named or with no agenda, is the block's step in the state with the turn taken. -/
theorem step_of_blocksTurn {s : State} (h : blocksTurn s = true) : step s = blockStep (turnTaken s) := by
  match ha : s.agenda with
  | [] => rw [step_of_agenda_nil ha, turnTaken_of_agenda_nil ha]
  | .block :: r => exact step_of_block_turn ha
  | .host m :: r => simp [blocksTurn, ha] at h

/-- Every step is the block's or one host move, in the state with the turn taken. -/
theorem step_cases (s : State) :
    step s = blockStep (turnTaken s) ∨ ∃ m, step s = hostMove m (turnTaken s) := by
  match ha : s.agenda with
  | [] => exact .inl (step_of_blocksTurn (by simp [blocksTurn, ha]))
  | .block :: r => exact .inl (step_of_block_turn ha)
  | .host m :: r => exact .inr ⟨m, step_of_host_turn ha⟩

/-! ## What every step of the block keeps (R25, R26, R50, R57, R224) -/

/-- The block's inputs and the host's side are as before, and no warning is cleared. The defaults are the proofs for the
named updates, which write none of these fields. -/
structure KeepsInputs (s t : State) : Prop where
  inMem : t.inMem = s.inMem := by rfl
  inLen : t.inLen = s.inLen := by rfl
  params : t.params = s.params := by rfl
  memEpoch : t.memEpoch = s.memEpoch := by rfl
  draws : t.draws = s.draws := by rfl
  agenda : t.agenda = s.agenda := by rfl
  hostData : t.hostData = s.hostData := by rfl
  warnOverrun : s.status.warnOverrun = true → t.status.warnOverrun = true := by exact id
  warnTrunc : s.status.warnTrunc = true → t.status.warnTrunc = true := by exact id
  warnTrailing : s.status.warnTrailing = true → t.status.warnTrailing = true := by exact id

/-- One byte is stored at the output cursor, which exists, and the cursor advances (R51). -/
def AppendsByte (s t : State) : Prop :=
  s.outCur.toNat < s.params.outCap.toNat ∧ t.outCur = s.outCur + 1 ∧ ∃ b, t.outMem = s.outMem.write s.outCur.toNat b

/-- What a step of TOP, COPY or POST does besides: the header's results stay, at most one byte is appended, and a decode
that ends records the output cursor in `OUT_LEN` (R27, R33, R51, R205, R227). -/
structure DecodeStep (s t : State) : Prop extends KeepsInputs s t where
  variant : t.variant = s.variant := by rfl
  declLen : t.declLen = s.declLen := by rfl
  output : (t.outMem = s.outMem ∧ t.outCur = s.outCur) ∨ AppendsByte s t := by exact .inl ⟨rfl, rfl⟩
  ended : t.phase.decoding = true ∨ t.phase.decoding = false ∧ t.outLen = t.outCur := by exact .inl rfl

/-- What becomes of a parsed back-reference in its TOP step. -/
theorem decodeStep_of_runRef {l d : Nat} {s t : State} (h : runRef l d s = .next t) : DecodeStep s t := by
  rcases runRef_cases l d s with ⟨-, he⟩ | ⟨-, -, -, he⟩ | ⟨-, -, -, he⟩ <;>
    obtain rfl := Host.Outcome.next.inj (he.symm.trans h)
  · exact { ended := .inr ⟨rfl, rfl⟩ }
  · exact { warnOverrun := fun _ => rfl }
  · exact {}

theorem decodeStep_of_tokenStep {s t : State} (h : tokenStep s = .next t) : DecodeStep s t := by
  rcases tokenStep_cases s with ⟨b, he⟩ | ⟨i, l, d, hi, -, -, -, -, he⟩ <;> rw [he] at h
  · rcases exec_lit_next h with ⟨-, rfl⟩ | ⟨-, hc, rfl⟩
    · exact {}
    · exact { output := .inr ⟨hc, rfl, b, rfl⟩ }
  · rcases exec_ref_next hi h with ⟨k, n, -, -, rfl⟩ | ⟨-, hr⟩
    · exact {}
    · exact { decodeStep_of_runRef hr with }

theorem decodeStep_of_topStep {s t : State} (h : topStep s = .next t) : DecodeStep s t := by
  rcases topStep_next h with ⟨-, rfl⟩ | ⟨-, -, ⟨-, ht⟩ | ⟨-, f, ht⟩⟩
  · exact {}
  · exact decodeStep_of_tokenStep ht
  · exact { decodeStep_of_tokenStep ht with }

theorem decodeStep_of_copyStep {s t : State} (h : copyStep s = .next t) : DecodeStep s t := by
  obtain ⟨-, hc, rfl⟩ := copyStep_next h
  generalize outByte s (s.outCur.toNat - s.dist.toNat) = b
  refine { output := .inr ⟨hc, rfl, b, rfl⟩, ended := .inl ?_ }
  rcases countDown_phase_cases (putByte b s) with ⟨-, hp⟩ | ⟨-, hp⟩ <;> rw [hp] <;> rfl

theorem decodeStep_of_postStep {s t : State} (h : postStep s = .next t) : DecodeStep s t := by
  obtain ⟨n, -, rfl⟩ := postStep_next h
  exact {
    warnTrunc := fun hw => by simp [completionWarnings, hw]
    warnTrailing := fun hw => by simp [completionWarnings, hw]
    ended := .inr ⟨rfl, rfl⟩ }

/-- The HDR step writes no output, and the output cursor stays or starts again at 0 (R106). -/
theorem hdrStep_frame {s t : State} (h : hdrStep s = .next t) :
    KeepsInputs s t ∧ t.outMem = s.outMem ∧ (t.outCur = s.outCur ∨ t.outCur = 0) := by
  rcases hdrStep_cases s with ⟨-, he⟩ | ⟨-, he⟩ | ⟨v, n, -, -, he⟩ | ⟨v, n, -, -, he⟩ <;>
    obtain rfl := Host.Outcome.next.inj (he.symm.trans h)
  · exact ⟨{}, rfl, .inl rfl⟩
  · exact ⟨{}, rfl, .inl rfl⟩
  · exact ⟨{}, rfl, .inl rfl⟩
  · exact ⟨{}, rfl, .inr rfl⟩

/-- Everything a step of the block can do: the block rests, the header is checked, or a decode goes on. -/
theorem blockStep_cases {s t : State} (h : blockStep s = .next t) :
    (s.phase.busy = false ∧ t = s) ∨ (s.phase = .hdr ∧ hdrStep s = .next t) ∨
      (s.phase.decoding = true ∧ DecodeStep s t) := by
  cases hp : s.phase <;> simp only [blockStep, hp] at h
  case hdr => exact .inr (.inl ⟨rfl, h⟩)
  case top => exact .inr (.inr ⟨rfl, decodeStep_of_topStep h⟩)
  case copy => exact .inr (.inr ⟨rfl, decodeStep_of_copyStep h⟩)
  case post => exact .inr (.inr ⟨rfl, decodeStep_of_postStep h⟩)
  all_goals exact .inl ⟨rfl, (Host.Outcome.next.inj h).symm⟩

theorem keepsInputs_of_blockStep {s t : State} (h : blockStep s = .next t) : KeepsInputs s t := by
  rcases blockStep_cases h with ⟨-, rfl⟩ | ⟨-, hh⟩ | ⟨-, hd⟩
  · exact {}
  · exact (hdrStep_frame hh).1
  · exact hd.toKeepsInputs

/-- Settles O46: every phase keeps the inputs, and past HDR the header's results. -/
theorem blockLeavesItsInputs : Obligations.BlockLeavesItsInputs := by
  intro s t h
  have k := keepsInputs_of_blockStep h
  refine ⟨⟨k.inMem, k.inLen, k.params, k.memEpoch, k.draws, k.agenda, k.hostData⟩, fun hp => ?_, k.warnOverrun,
    k.warnTrunc, k.warnTrailing⟩
  rcases blockStep_cases h with ⟨-, rfl⟩ | ⟨hh, -⟩ | ⟨-, hd⟩
  · exact ⟨rfl, rfl⟩
  · exact absurd hh hp
  · exact ⟨hd.variant, hd.declLen⟩

/-! ## The output cursor (R51, R106) -/

/-- Settles O47: HDR writes nothing, and a step of a decode appends at most one byte. -/
theorem outputIsWrittenAtTheCursor : Obligations.OutputIsWrittenAtTheCursor := by
  intro s t h
  rcases blockStep_cases h with ⟨-, rfl⟩ | ⟨hh, hs⟩ | ⟨-, hd⟩
  · exact .inl ⟨rfl, .inl rfl⟩
  · obtain ⟨-, hm, hc⟩ := hdrStep_frame hs
    exact .inl ⟨hm, hc.imp_right fun hc => ⟨hh, hc⟩⟩
  · exact hd.output.imp_left fun ⟨hm, hc⟩ => ⟨hm, .inl hc⟩

/-! ## Both memories stay canonical (R53) -/

theorem blockStep_keeps_memoriesWf {s t : State} (hs : MemoriesWf s) (h : blockStep s = .next t) : MemoriesWf t := by
  obtain ⟨hiw, how, hib, hob⟩ := hs
  have k := keepsInputs_of_blockStep h
  rw [MemoriesWf, k.inMem, k.params]
  rcases outputIsWrittenAtTheCursor s t h with ⟨hm, -⟩ | ⟨hc, -, b, hm⟩ <;> rw [hm]
  · exact ⟨hiw, how, hib, hob⟩
  · exact ⟨hiw, write_wf how _ b, hib, write_bound hob hc b⟩

/-- Settles O40: a read leaves its value with the host, and takes a draw only in `OUT_MEM` while BUSY. -/
theorem hostReadsChangeNothing : Obligations.HostReadsChangeNothing := by
  intro s t m hm h
  cases m with
  | readIn a =>
    obtain ⟨-, h⟩ := inAccess_next h
    obtain rfl := Host.Outcome.next.inj h
    exact ⟨rfl, fun _ => rfl⟩
  | readReg offset w =>
    obtain ⟨-, -, -, h⟩ := regAccess_next h
    obtain rfl := Host.Outcome.next.inj h
    exact ⟨rfl, fun _ => rfl⟩
  | readOut a =>
    obtain ⟨-, h⟩ := outAccess_next h
    obtain rfl := Host.Outcome.next.inj h
    unfold hostReadOut
    split_ifs with hb
    · exact ⟨rfl, fun hc => hc.elim (fun hne => absurd rfl (hne a)) fun hnb => absurd (hb.symm.trans hnb) (by decide)⟩
    · exact ⟨rfl, fun _ => rfl⟩
  | writeIn a b => cases hm
  | writeOut a b => cases hm
  | writeReg offset w v => cases hm
  | reset => cases hm

theorem hostMove_keeps_memoriesWf {m : HostMove} {s t : State} (hs : MemoriesWf s) (h : hostMove m s = .next t) :
    MemoriesWf t := by
  have ⟨hiw, how, hib, hob⟩ := hs
  have read (hr : m.reads = true) : MemoriesWf t := (hostReadsChangeNothing s t m hr h).1 ▸ hs
  cases m with
  | readIn a => exact read rfl
  | readOut a => exact read rfl
  | readReg offset w => exact read rfl
  | writeIn a b =>
    obtain ⟨-, h⟩ := whenNotBusy_next h
    obtain ⟨ha, h⟩ := inAccess_next h
    obtain rfl := Host.Outcome.next.inj h
    exact ⟨write_wf hiw a b, how, write_bound hib ha b, hob⟩
  | writeOut a b =>
    obtain ⟨-, h⟩ := whenNotBusy_next h
    obtain ⟨ha, h⟩ := outAccess_next h
    obtain rfl := Host.Outcome.next.inj h
    exact ⟨hiw, write_wf how a b, hib, write_bound hob ha b⟩
  | writeReg offset w v =>
    obtain ⟨-, -, -, h⟩ := regAccess_next h
    obtain rfl := Host.Outcome.next.inj h
    rcases regWrite_cases s offset v with ⟨-, he⟩ | ⟨-, he⟩ | he <;> rw [he] <;> exact hs
  | reset =>
    obtain rfl := Host.Outcome.next.inj h
    simp [MemoriesWf, Memory.wf, State.reset]

/-- Settles O51: the block appends at a cursor that exists, and the host writes at addresses that exist. -/
theorem stepKeepsMemoriesCanonical : Obligations.StepKeepsMemoriesCanonical := by
  intro s t hs h
  have hs' : MemoriesWf (turnTaken s) := hs
  rcases step_cases s with he | ⟨m, he⟩ <;> rw [he] at h
  · exact blockStep_keeps_memoriesWf hs' h
  · exact hostMove_keeps_memoriesWf hs' h

/-! ## The bytes past the output (R67) -/

/-- How much of `OUT_MEM` the decode has written: up to the cursor while the cursors are live, `OUT_LEN` otherwise. -/
def outputEnd (s : State) : Nat := if s.phase.decoding then s.outCur.toNat else s.outLen.toNat

theorem outputEnd_of_decoding {s : State} (h : s.phase.decoding = true) : outputEnd s = s.outCur.toNat := if_pos h

theorem outputEnd_of_not_decoding {s : State} (h : s.phase.decoding = false) : outputEnd s = s.outLen.toNat :=
  if_neg (by simp [h])

/-- After a step of a decode everything up to the cursor may be output, also where the decode ended. -/
theorem DecodeStep.outputEnd_eq {s t : State} (h : DecodeStep s t) : outputEnd t = t.outCur.toNat := by
  rcases h.ended with hp | ⟨hp, ho⟩
  · exact outputEnd_of_decoding hp
  · rw [outputEnd_of_not_decoding hp, ho]

/-- An appended byte stands at the cursor before the step, and just below the one after it: no wrap. -/
theorem AppendsByte.frame {s t : State} (h : AppendsByte s t) (he : t.memEpoch = s.memEpoch) :
    t.outCur.toNat = s.outCur.toNat + 1 ∧ ∀ a, t.outCur.toNat ≤ a → outByte t a = outByte s a := by
  obtain ⟨hlt, hc, b, hm⟩ := h
  have hnext : t.outCur.toNat = s.outCur.toNat + 1 := by rw [hc]; bv_omega
  refine ⟨hnext, fun a ha => ?_⟩
  have hput : outByte t a = outByte (putByte b s) a := outByte_congr (t := putByte b s) hm he a
  rw [hput, outByte_putByte_ne b s (by omega)]

theorem DecodeStep.outByte_past {s t : State} (h : DecodeStep s t) :
    s.outCur.toNat ≤ t.outCur.toNat ∧ ∀ a, t.outCur.toNat ≤ a → outByte t a = outByte s a := by
  rcases h.output with ⟨hm, hc⟩ | happ
  · exact ⟨by rw [hc], fun a _ => outByte_congr hm h.memEpoch a⟩
  · obtain ⟨hnext, hframe⟩ := happ.frame h.memEpoch
    exact ⟨by omega, hframe⟩

/-- A step of the block never shrinks what the decode has written, and changes nothing past it. -/
theorem blockStep_outByte_past {s t : State} (hs : s.Inv) (h : blockStep s = .next t) :
    outputEnd s ≤ outputEnd t ∧ ∀ a, outputEnd t ≤ a → outByte t a = outByte s a := by
  rcases blockStep_cases h with ⟨-, rfl⟩ | ⟨hp, hh⟩ | ⟨hp, hd⟩
  · exact ⟨le_rfl, fun _ _ => rfl⟩
  · obtain ⟨k, hm, -⟩ := hdrStep_frame hh
    have hlen := ((inv_iff_of_idle_or_hdr (.inr hp)).mp hs).outLen
    have hend : outputEnd s = 0 := by rw [outputEnd_of_not_decoding (by rw [hp]; rfl), hlen]; rfl
    exact ⟨hend ▸ Nat.zero_le _, fun a _ => outByte_congr hm k.memEpoch a⟩
  · rw [outputEnd_of_decoding hp, hd.outputEnd_eq]
    exact hd.outByte_past

/-- What a run of the block from `s` keeps: past the end of its output, `OUT_MEM` is as it was in `s`. -/
structure OutputPastKept (s u : State) : Prop where
  inv : u.Inv
  agenda : u.agenda = []
  past : ∀ a, outputEnd u ≤ a → outByte u a = outByte s a

theorem OutputPastKept.of_step {s u v : State} (hu : OutputPastKept s u) (h : step u = .next v) : OutputPastKept s v := by
  have hb : blockStep u = .next v := step_of_agenda_nil hu.agenda ▸ h
  obtain ⟨hle, hkeep⟩ := blockStep_outByte_past hu.inv hb
  exact ⟨stepKeepsInvariant u v hu.inv h, (keepsInputs_of_blockStep hb).agenda.trans hu.agenda,
    fun a ha => (hkeep a ha).trans (hu.past a (hle.trans ha))⟩

theorem not_decoding_of_finished {p : Phase} (h : p.finished = true) : p.decoding = false := by
  cases p <;> revert h <;> decide

/-- Settles O59: every step keeps the bytes past the output so far, and a decode that has ended has put out `OUT_LEN` bytes. -/
theorem decodeLeavesOutputPastOutLen : Obligations.DecodeLeavesOutputPastOutLen := by
  intro s t n hs hag _ hrun hfin a ha
  have ht : OutputPastKept s t := run_invariant (fun _ _ hu => hu.of_step) ⟨hs, hag, fun _ _ => rfl⟩ hrun
  exact ht.past a (by rwa [outputEnd_of_not_decoding (not_decoding_of_finished hfin)])

/-! ## The block never faults (R50 to R53) -/

/-- A read step of a stream inside `IN_MEM` answers a next state wherever what follows it does. -/
theorem readStream_progress {n : Nat} {s : State} {go : State → Out} (hm : s.inLen.toNat ≤ s.params.maxInLen)
    (hgo : ∃ t, go (advanceIn n s) = .next t) : ∃ t, readStream n s go = .next t := by
  by_cases h : s.inLen.toNat < s.inCur.toNat + n
  · exact ⟨_, readStream_short go h⟩
  · rwa [readStream_ok go (by omega) (by omega)]

theorem runRef_progress (l d : Nat) (s : State) : ∃ t, runRef l d s = .next t := by
  rcases runRef_cases l d s with ⟨-, he⟩ | ⟨-, -, -, he⟩ | ⟨-, -, -, he⟩ <;> exact ⟨_, he⟩

theorem exec_lit_progress {s : State} (b : Byte) (hm : s.inLen.toNat ≤ s.params.maxInLen)
    (ho : s.outCur.toNat < s.params.outCap.toNat) : ∃ t, exec (.lit b) s = .next t := by
  rw [exec_lit]
  exact readStream_progress hm ⟨_, writeOut_ok (s := advanceIn 1 s) _ ho⟩

theorem exec_ref_progress {i : Instr} {l d : Nat} {s : State} (hi : refOperands i = some (l, d))
    (hm : s.inLen.toNat ≤ s.params.maxInLen) : ∃ t, exec i s = .next t := by
  have last (l d n : Nat) {u : State} (hu : u.inLen.toNat ≤ u.params.maxInLen) :
      ∃ t, readStream n u (fun s => runRef l d s) = .next t := readStream_progress hu (runRef_progress l d _)
  cases i with
  | refaS t d => exact last _ _ 2 hm
  | refbS t d => exact last _ _ 2 hm
  | refaM l d => rw [exec_refaM]; exact readStream_progress hm (last _ _ 1 hm)
  | refbM l d => rw [exec_refbM]; exact readStream_progress hm (last _ _ 1 hm)
  | refaL l d => rw [exec_refaL]; exact readStream_progress hm (readStream_progress hm (last _ _ 1 hm))
  | refbL l d => rw [exec_refbL]; exact readStream_progress hm (readStream_progress hm (last _ _ 1 hm))
  | _ => cases hi

theorem tokenStep_progress {s : State} (hm : s.inLen.toNat ≤ s.params.maxInLen)
    (ho : s.outCur.toNat < s.params.outCap.toNat) : ∃ t, tokenStep s = .next t := by
  rcases tokenStep_cases s with ⟨b, he⟩ | ⟨i, l, d, hi, -, -, -, -, he⟩ <;> rw [he]
  · exact exec_lit_progress b hm ho
  · exact exec_ref_progress hi hm

/-- A flags fetch that has a byte left goes on to its token. -/
theorem flagsStep_of_bytesLeft {s : State} (h : bytesLeft 1 s) :
    ∃ f, flagsStep s = tokenStep (loadFlags f (advanceIn 1 s)) := by
  obtain ⟨hin, hm⟩ := h
  refine ⟨effectiveFlags s.variant (streamByte s s.inCur.toNat 0), ?_⟩
  rw [flagsStep, fetchFlags, exec_decodeFlags, readStream_ok _ hin (hin.trans hm)]

theorem topStep_progress {s : State} (hs : Live s) : ∃ t, topStep s = .next t := by
  have hm := hs.inLen_le
  unfold topStep
  split
  · exact ⟨_, rfl⟩
  · rename_i hloop
    rw [loopEnds_iff, not_or, Nat.not_le, Nat.not_le] at hloop
    obtain ⟨hout, hin⟩ := hloop
    have ho := hout.trans_le hs.declLen_le
    split
    · obtain ⟨f, hf⟩ := flagsStep_of_bytesLeft ⟨hin, hm⟩
      rw [hf]
      exact tokenStep_progress hm ho
    · exact tokenStep_progress hm ho

theorem hdrStep_progress (s : State) : ∃ t, hdrStep s = .next t := by
  rcases hdrStep_cases s with ⟨-, he⟩ | ⟨-, he⟩ | ⟨v, n, -, -, he⟩ | ⟨v, n, -, -, he⟩ <;> exact ⟨_, he⟩

theorem copyStep_progress {s : State} (hs : Live s) (hp : s.phase = .copy) (hc : CopyWf s) :
    ∃ t, copyStep s = .next t := by
  obtain ⟨⟨h1, hfit⟩, hd1, hdle, -⟩ := hc hp
  have hcap := hs.declLen_le
  exact ⟨_, copyStep_ok hdle hd1 (by omega)⟩

theorem postStep_progress {s : State} (hs : Live s) : ∃ t, postStep s = .next t := by
  unfold postStep
  split
  · exact ⟨_, rfl⟩
  · exact ⟨_, (exec_decodeTrailer _ _ _ s).trans (skipPadding_ok _ hs.inLen_le)⟩

theorem blockStep_progress {s : State} (hs : s.Inv) : ∃ t, blockStep s = .next t := by
  cases hp : s.phase <;> simp only [blockStep, hp]
  case hdr => exact hdrStep_progress s
  case top => exact topStep_progress ((inv_iff_of_top_or_post (.inl hp)).mp hs).1
  case copy =>
    obtain ⟨hl, hc, -⟩ := (inv_iff_of_copy hp).mp hs
    exact copyStep_progress hl hp hc
  case post => exact postStep_progress ((inv_iff_of_top_or_post (.inr hp)).mp hs).1
  all_goals exact ⟨s, rfl⟩

/-- Settles O54: in every phase the addresses the block's step accesses exist. -/
theorem blockNeverFaults : Obligations.BlockNeverFaults := by
  intro s hs hturn
  rw [step_of_blocksTurn hturn]
  exact blockStep_progress (s := turnTaken s) hs

/-! ## The moves the host does not have (R53, R58, R254) -/

theorem regAccess_narrow {offset : Nat} {w : AccessWidth} (go : Out) (hw : w ≠ .word) :
    regAccess offset w go = .refused .narrowAccess := if_pos hw

theorem regAccess_misaligned {offset : Nat} (go : Out) (ha : offset % 4 ≠ 0) :
    regAccess offset .word go = .refused .misalignedAccess := by
  simp [regAccess, ha]

theorem regAccess_outside {offset : Nat} (go : Out) (ha : offset % 4 = 0) (ho : windowBytes ≤ offset) :
    regAccess offset .word go = .refused .outsideWindow := by
  simp [regAccess, ha, ho]

theorem whenNotBusy_refused {s : State} (go : Out) (hb : s.phase.busy = true) :
    whenNotBusy s go = .refused .memoryWriteWhileBusy := if_pos hb

/-- Settles O42: each of these moves fails its guard, whatever the move would do. -/
theorem missingHostMovesAreRefused : Obligations.MissingHostMovesAreRefused := fun _ _ _ _ _ _ =>
  ⟨fun hw => ⟨regAccess_narrow _ hw, regAccess_narrow _ hw⟩,
    fun ha => ⟨regAccess_misaligned _ ha, regAccess_misaligned _ ha⟩,
    fun ha ho => ⟨regAccess_outside _ ha ho, regAccess_outside _ ha ho⟩,
    fun hb => ⟨whenNotBusy_refused _ hb, whenNotBusy_refused _ hb⟩⟩

end Sys2Proof.Proofs
end

section
namespace Sys2Proof.Proofs
open Sys2Proof Sys2Proof.Machine

/-! ## Bit fields and their concatenations

For each field of R71 to R81 that is stored in parts: putting its parts together gives it back, and taking a concatenation
apart gives the parts. -/

@[simp] theorem extractLsb'_eq_hiNibble (b : Byte) : b.extractLsb' 4 4 = hiNibble b := rfl

@[simp] theorem extractLsb'_eq_loNibble (b : Byte) : b.extractLsb' 0 4 = loNibble b := rfl

@[simp] theorem hiNibble_append (a b : BitVec 4) : hiNibble (a ++ b) = a := BitVec.extractLsb'_append_eq_left

@[simp] theorem loNibble_append (a b : BitVec 4) : loNibble (a ++ b) = b := BitVec.extractLsb'_append_eq_right

/-- A field is its bits from `k` on and its low `k` bits. -/
theorem extractLsb'_append_low {m k : Nat} (x : BitVec (m + k)) : x.extractLsb' k m ++ x.extractLsb' 0 k = x :=
  (BitVec.extractLsb'_append_extractLsb'_eq_extractLsb' (Nat.zero_add k).symm).trans BitVec.extractLsb'_eq_self

@[simp] theorem hiNibble_append_loNibble (b : Byte) : hiNibble b ++ loNibble b = b :=
  extractLsb'_append_low (m := 4) (k := 4) b

@[simp] theorem distPartsA_join (d : BitVec 12) : d.extractLsb' 8 4 ++ d.extractLsb' 0 8 = d :=
  extractLsb'_append_low (m := 4) (k := 8) d

@[simp] theorem distPartsA_append (a : BitVec 4) (b : Byte) :
    (a ++ b : BitVec 12).extractLsb' 8 4 = a ∧ (a ++ b : BitVec 12).extractLsb' 0 8 = b :=
  ⟨BitVec.extractLsb'_append_eq_left, BitVec.extractLsb'_append_eq_right⟩

@[simp] theorem distPartsB_join (d : BitVec 12) : d.extractLsb' 4 8 ++ d.extractLsb' 0 4 = d :=
  extractLsb'_append_low (m := 8) (k := 4) d

@[simp] theorem distPartsB_append (a : Byte) (b : BitVec 4) :
    (a ++ b : BitVec 12).extractLsb' 4 8 = a ∧ (a ++ b : BitVec 12).extractLsb' 0 4 = b :=
  ⟨BitVec.extractLsb'_append_eq_left, BitVec.extractLsb'_append_eq_right⟩

@[simp] theorem lengthPartsA_join (l : BitVec 16) :
    l.extractLsb' 12 4 ++ l.extractLsb' 4 8 ++ l.extractLsb' 0 4 = l := by
  have htop : l.extractLsb' 12 4 ++ l.extractLsb' 4 8 = l.extractLsb' 4 12 :=
    BitVec.extractLsb'_append_extractLsb'_eq_extractLsb' rfl
  rw [htop]
  exact extractLsb'_append_low (m := 12) (k := 4) l

@[simp] theorem lengthPartsA_append (a : BitVec 4) (b : Byte) (c : BitVec 4) :
    (a ++ b ++ c : BitVec 16).extractLsb' 12 4 = a ∧ (a ++ b ++ c : BitVec 16).extractLsb' 4 8 = b ∧
      (a ++ b ++ c : BitVec 16).extractLsb' 0 4 = c :=
  ⟨(BitVec.extractLsb'_append_eq_of_le (by decide)).trans BitVec.extractLsb'_append_eq_left,
    (BitVec.extractLsb'_append_eq_of_le le_rfl).trans BitVec.extractLsb'_append_eq_right,
    BitVec.extractLsb'_append_eq_right⟩

@[simp] theorem lengthPartsB_join (l : BitVec 16) : l.extractLsb' 8 8 ++ l.extractLsb' 0 8 = l :=
  extractLsb'_append_low (m := 8) (k := 8) l

@[simp] theorem lengthPartsB_append (a b : Byte) :
    (a ++ b : BitVec 16).extractLsb' 8 8 = a ∧ (a ++ b : BitVec 16).extractLsb' 0 8 = b :=
  ⟨BitVec.extractLsb'_append_eq_left, BitVec.extractLsb'_append_eq_right⟩

@[simp] theorem headerLength_join (n : BitVec 24) :
    headerLength (n.extractLsb' 0 8) (n.extractLsb' 8 8) (n.extractLsb' 16 8) = n := by
  have htop : n.extractLsb' 16 8 ++ n.extractLsb' 8 8 = n.extractLsb' 8 16 :=
    BitVec.extractLsb'_append_extractLsb'_eq_extractLsb' rfl
  rw [headerLength, htop]
  exact extractLsb'_append_low (m := 16) (k := 8) n

@[simp] theorem headerLength_parts (b1 b2 b3 : Byte) :
    (headerLength b1 b2 b3).extractLsb' 0 8 = b1 ∧ (headerLength b1 b2 b3).extractLsb' 8 8 = b2 ∧
      (headerLength b1 b2 b3).extractLsb' 16 8 = b3 :=
  ⟨BitVec.extractLsb'_append_eq_right,
    (BitVec.extractLsb'_append_eq_of_le le_rfl).trans BitVec.extractLsb'_append_eq_right,
    (BitVec.extractLsb'_append_eq_of_le (by decide)).trans BitVec.extractLsb'_append_eq_left⟩

/-! ## The decoder, context by context (R85) -/

theorem decode_header_iff {p : Params} {bytes rest : List Byte} {i : Instr} :
    decode p .header bytes = .ok (i, rest) ↔
      ∃ b0 b1 b2 b3, bytes = b0 :: b1 :: b2 :: b3 :: rest ∧ decodeHeader p b0 b1 b2 b3 = some i := by
  constructor
  · intro h
    match bytes, h with
    | b0 :: b1 :: b2 :: b3 :: r, h =>
      cases hd : decodeHeader p b0 b1 b2 b3 <;> simp [decode, hd] at h
      obtain ⟨rfl, rfl⟩ := h
      exact ⟨b0, b1, b2, b3, rfl, hd⟩
  · rintro ⟨b0, b1, b2, b3, rfl, hd⟩
    simp [decode, hd]

theorem decode_flags_iff {p : Params} {v : Variant} {bytes rest : List Byte} {i : Instr} :
    decode p (.flags v) bytes = .ok (i, rest) ↔ ∃ b, bytes = b :: rest ∧ i = decodeFlags v b := by
  cases bytes <;> simp [decode, and_comm, eq_comm]

theorem decode_literal_iff {p : Params} {v : Variant} {bytes rest : List Byte} {i : Instr} :
    decode p (.token v false) bytes = .ok (i, rest) ↔ ∃ b, bytes = b :: rest ∧ i = .lit b := by
  cases bytes <;> simp [decode, and_comm, eq_comm]

theorem decode_trailer_iff {p : Params} {bytes rest : List Byte} {i : Instr} :
    decode p .trailer bytes = .ok (i, rest) ↔
      (∃ x1 x2, bytes = 0x80 :: x1 :: x2 :: rest ∧ i = .padb3 x1 x2) ∨
        ∃ y x, y ≠ 0x80 ∧ bytes = y :: x :: rest ∧ i = .padb2 y x := by
  constructor
  · intro h
    match bytes, h with
    | y :: x :: r, h =>
      simp only [decode] at h
      split_ifs at h with hy
      · match r, h with
        | x2 :: r, h =>
          cases h
          exact .inl ⟨x, x2, by rw [hy], if_pos hy⟩
      · cases h
        exact .inr ⟨y, x, hy, rfl, if_neg hy⟩
  · rintro (⟨x1, x2, rfl, rfl⟩ | ⟨y, x, hy, rfl, rfl⟩)
    · rfl
    · simp only [decode, decodeTrailer, if_neg hy]

/-- No tier asks for more than two extension bytes (R73). -/
theorem extensionBytes_le (v : Variant) (b0 : Byte) : extensionBytes v b0 ≤ 2 := by
  unfold extensionBytes
  split_ifs <;> decide

/-- A back-reference is its first word and as many extension bytes as the tier asks for, those missing counting as 0. -/
theorem decode_ref_iff {p : Params} {v : Variant} {bytes rest : List Byte} {i : Instr} :
    decode p (.token v true) bytes = .ok (i, rest) ↔
      ∃ b0 b1 ext, bytes = b0 :: b1 :: (ext ++ rest) ∧ ext.length = extensionBytes v b0 ∧
        i = decodeRef v b0 b1 (ext.getD 0 0) (ext.getD 1 0) := by
  constructor
  · intro h
    match bytes, h with
    | b0 :: b1 :: r, h =>
      simp only [decode] at h
      split at h
      next hn => cases h; exact ⟨b0, b1, [], rfl, hn.symm, rfl⟩
      next b2 r hn => cases h; exact ⟨b0, b1, [b2], rfl, hn.symm, rfl⟩
      next b2 b3 r hn => cases h; exact ⟨b0, b1, [b2, b3], rfl, hn.symm, rfl⟩
      next => cases h
  · rintro ⟨b0, b1, ext, rfl, hlen, rfl⟩
    have hle := extensionBytes_le v b0
    match ext, hlen with
    | [], hlen => simp [decode, ← hlen]
    | [b2], hlen => simp [decode, ← hlen]
    | [b2, b3], hlen => simp [decode, ← hlen]
    | _ :: _ :: _ :: _, hlen => simp at hlen; omega

/-! ## Back-references, tier by tier (R73 to R80) -/

/-- The tiers tell the three forms apart; a tier of 2 or more is itself the stored length. -/
theorem tier_cases (t : BitVec 4) : t = 0 ∨ t = 1 ∨ 2 ≤ t.toNat := by
  revert t
  decide

theorem tier_ne_of_two_le {t : BitVec 4} (h : 2 ≤ t.toNat) : t ≠ 0 ∧ t ≠ 1 :=
  ⟨fun h0 => by simp [h0] at h, fun h1 => by simp [h1] at h⟩

section Tiers
variable {v : Variant} {b0 : Byte}

theorem extensionBytes_tier0 (h : tierOf v b0 = 0) : extensionBytes v b0 = 1 := if_pos h

theorem extensionBytes_tier1 (h : tierOf v b0 = 1) : extensionBytes v b0 = 2 := by
  rw [extensionBytes, h]
  rfl

theorem extensionBytes_short (h : 2 ≤ (tierOf v b0).toNat) : extensionBytes v b0 = 0 := by
  obtain ⟨h0, h1⟩ := tier_ne_of_two_le h
  rw [extensionBytes, if_neg h0, if_neg h1]

theorem decodeRefA_tier0 (h : tierOf .A b0 = 0) (b1 b2 b3 : Byte) :
    decodeRef .A b0 b1 b2 b3 = .refaM (loNibble b0 ++ hiNibble b1) (loNibble b1 ++ b2) := if_pos h

theorem decodeRefA_tier1 (h : tierOf .A b0 = 1) (b1 b2 b3 : Byte) :
    decodeRef .A b0 b1 b2 b3 = .refaL (loNibble b0 ++ b1 ++ hiNibble b2) (loNibble b2 ++ b3) :=
  (if_neg fun h0 => absurd (h0.symm.trans h) (by decide)).trans (if_pos h)

theorem decodeRefA_short (h : 2 ≤ (tierOf .A b0).toNat) (b1 b2 b3 : Byte) :
    decodeRef .A b0 b1 b2 b3 = .refaS (tierOf .A b0) (loNibble b0 ++ b1) :=
  (if_neg (tier_ne_of_two_le h).1).trans (if_neg (tier_ne_of_two_le h).2)

theorem decodeRefB_tier0 (h : tierOf .B b0 = 0) (b1 b2 b3 : Byte) :
    decodeRef .B b0 b1 b2 b3 = .refbM b2 (b1 ++ hiNibble b0) := if_pos h

theorem decodeRefB_tier1 (h : tierOf .B b0 = 1) (b1 b2 b3 : Byte) :
    decodeRef .B b0 b1 b2 b3 = .refbL (b3 ++ b2) (b1 ++ hiNibble b0) :=
  (if_neg fun h0 => absurd (h0.symm.trans h) (by decide)).trans (if_pos h)

theorem decodeRefB_short (h : 2 ≤ (tierOf .B b0).toNat) (b1 b2 b3 : Byte) :
    decodeRef .B b0 b1 b2 b3 = .refbS (tierOf .B b0) (b1 ++ hiNibble b0) :=
  (if_neg (tier_ne_of_two_le h).1).trans (if_neg (tier_ne_of_two_le h).2)

end Tiers

/-- What the decoder makes of a back-reference's bytes is well formed and encodes to those of them that its tier asks for. -/
theorem encode_decodeRef (p : Params) (v : Variant) (b0 b1 b2 b3 : Byte) :
    encode p (decodeRef v b0 b1 b2 b3) = b0 :: b1 :: [b2, b3].take (extensionBytes v b0) ∧
      (decodeRef v b0 b1 b2 b3).wellFormed = true ∧ (decodeRef v b0 b1 b2 b3).appliesIn (.token v true) = true := by
  cases v with
  | A =>
    have hb0 : tierOf .A b0 ++ loNibble b0 = b0 := hiNibble_append_loNibble b0
    rcases tier_cases (tierOf .A b0) with h | h | h
    · rw [decodeRefA_tier0 h, extensionBytes_tier0 h]
      rw [h] at hb0
      exact ⟨by simpa [encode] using hb0, rfl, rfl⟩
    · rw [decodeRefA_tier1 h, extensionBytes_tier1 h]
      rw [h] at hb0
      exact ⟨by simpa [encode] using hb0, rfl, rfl⟩
    · rw [decodeRefA_short h, extensionBytes_short h]
      exact ⟨by simpa [encode] using hb0, decide_eq_true h, rfl⟩
  | B =>
    have hb0 : hiNibble b0 ++ tierOf .B b0 = b0 := hiNibble_append_loNibble b0
    rcases tier_cases (tierOf .B b0) with h | h | h
    · rw [decodeRefB_tier0 h, extensionBytes_tier0 h]
      rw [h] at hb0
      exact ⟨by simpa [encode] using hb0, rfl, rfl⟩
    · rw [decodeRefB_tier1 h, extensionBytes_tier1 h]
      rw [h] at hb0
      exact ⟨by simpa [encode] using hb0, rfl, rfl⟩
    · rw [decodeRefB_short h, extensionBytes_short h]
      exact ⟨by simpa [encode] using hb0, decide_eq_true h, rfl⟩

/-- A well-formed back-reference encodes to a first word and the extension bytes its tier asks for, which decode to it. -/
theorem decodeRef_encode (p : Params) {v : Variant} {i : Instr} (hw : i.wellFormed = true)
    (ha : i.appliesIn (.token v true) = true) :
    ∃ b0 b1 ext, encode p i = b0 :: b1 :: ext ∧ ext.length = extensionBytes v b0 ∧
      i = decodeRef v b0 b1 (ext.getD 0 0) (ext.getD 1 0) := by
  cases v <;> cases i <;> cases ha
  case A.refaS t d =>
    have ht : tierOf .A (t ++ d.extractLsb' 8 4) = t := hiNibble_append _ _
    have h2 : 2 ≤ (tierOf .A (t ++ d.extractLsb' 8 4)).toNat := ht.symm ▸ of_decide_eq_true hw
    exact ⟨_, _, [], rfl, (extensionBytes_short h2).symm, by rw [decodeRefA_short h2, ht]; simp⟩
  case A.refaM l d =>
    have ht : tierOf .A (0#4 ++ l.extractLsb' 4 4) = 0 := hiNibble_append _ _
    exact ⟨_, _, [_], rfl, (extensionBytes_tier0 ht).symm, by rw [decodeRefA_tier0 ht]; simp⟩
  case A.refaL l d =>
    have ht : tierOf .A (1#4 ++ l.extractLsb' 12 4) = 1 := hiNibble_append _ _
    exact ⟨_, _, [_, _], rfl, (extensionBytes_tier1 ht).symm, by rw [decodeRefA_tier1 ht]; simp⟩
  case B.refbS t d =>
    have ht : tierOf .B (d.extractLsb' 0 4 ++ t) = t := loNibble_append _ _
    have h2 : 2 ≤ (tierOf .B (d.extractLsb' 0 4 ++ t)).toNat := ht.symm ▸ of_decide_eq_true hw
    exact ⟨_, _, [], rfl, (extensionBytes_short h2).symm, by rw [decodeRefB_short h2, ht]; simp⟩
  case B.refbM l d =>
    have ht : tierOf .B (d.extractLsb' 0 4 ++ 0#4) = 0 := loNibble_append _ _
    exact ⟨_, _, [_], rfl, (extensionBytes_tier0 ht).symm, by rw [decodeRefB_tier0 ht]; simp⟩
  case B.refbL l d =>
    have ht : tierOf .B (d.extractLsb' 0 4 ++ 1#4) = 1 := loNibble_append _ _
    exact ⟨_, _, [_, _], rfl, (extensionBytes_tier1 ht).symm, by rw [decodeRefB_tier1 ht]; simp⟩

/-! ## The statements about the decoder and the encoder -/

/-- The tag alone chooses the header row (R103). -/
theorem decodeHeader_iff {p : Params} {b0 b1 b2 b3 : Byte} {i : Instr} :
    decodeHeader p b0 b1 b2 b3 = some i ↔
      (b0 = p.tagA ∧ i = .hdrA (headerLength b1 b2 b3)) ∨
        (b0 ≠ p.tagA ∧ b0 = p.tagB ∧ i = .hdrB (headerLength b1 b2 b3)) := by
  unfold decodeHeader
  split_ifs with hA hB
  · simp [hA, eq_comm]
  · simp [hA, ← hB, eq_comm]
  · simp [hA, hB]

/-- Settles O2: context by context, the parts of each operand join to the operand again. -/
theorem decodeInvertsEncode : Obligations.DecodeInvertsEncode := by
  intro p i c rest htags hw ha
  match c, ha with
  | .header, ha =>
    refine decode_header_iff.mpr ?_
    cases i <;> cases ha
    case hdrA n => exact ⟨_, _, _, _, rfl, decodeHeader_iff.mpr (.inl ⟨rfl, by rw [headerLength_join]⟩)⟩
    case hdrB n => exact ⟨_, _, _, _, rfl, decodeHeader_iff.mpr (.inr ⟨htags.symm, rfl, by rw [headerLength_join]⟩)⟩
  | .flags v, ha => cases v <;> cases i <;> cases ha <;> exact decode_flags_iff.mpr ⟨_, rfl, rfl⟩
  | .token v false, ha => cases v <;> cases i <;> cases ha <;> exact decode_literal_iff.mpr ⟨_, rfl, rfl⟩
  | .token v true, ha =>
    obtain ⟨b0, b1, ext, henc, hlen, hi⟩ := decodeRef_encode p hw ha
    exact decode_ref_iff.mpr ⟨b0, b1, ext, by rw [henc]; rfl, hlen, hi⟩
  | .trailer, ha =>
    refine decode_trailer_iff.mpr ?_
    cases i <;> cases ha
    case padb2 y x => exact .inr ⟨y, x, of_decide_eq_true hw, rfl, rfl⟩
    case padb3 x1 x2 => exact .inl ⟨x1, x2, rfl, rfl⟩

/-- Settles O3: context by context, an operand's parts are the bytes it was joined from. -/
theorem encodeInvertsDecode : Obligations.EncodeInvertsDecode := by
  intro p c bytes rest i h
  match c, h with
  | .header, h =>
    obtain ⟨b0, b1, b2, b3, rfl, hi⟩ := decode_header_iff.mp h
    rcases decodeHeader_iff.mp hi with ⟨rfl, rfl⟩ | ⟨-, rfl, rfl⟩
    · exact ⟨by simp [encode], rfl, rfl⟩
    · exact ⟨by simp [encode], rfl, rfl⟩
  | .flags v, h =>
    obtain ⟨b, rfl, rfl⟩ := decode_flags_iff.mp h
    cases v <;> exact ⟨rfl, rfl, rfl⟩
  | .token v false, h =>
    obtain ⟨b, rfl, rfl⟩ := decode_literal_iff.mp h
    cases v <;> exact ⟨rfl, rfl, rfl⟩
  | .token v true, h =>
    obtain ⟨b0, b1, ext, rfl, hlen, rfl⟩ := decode_ref_iff.mp h
    obtain ⟨henc, hrow⟩ := encode_decodeRef p v b0 b1 (ext.getD 0 0) (ext.getD 1 0)
    refine ⟨?_, hrow⟩
    have hle := extensionBytes_le v b0
    have hext : [ext.getD 0 0, ext.getD 1 0].take ext.length = ext := by
      match ext with
      | [] => rfl
      | [_] => rfl
      | [_, _] => rfl
      | _ :: _ :: _ :: _ => simp at hlen; omega
    rw [henc, ← hlen, hext]
    rfl
  | .trailer, h =>
    rcases decode_trailer_iff.mp h with ⟨x1, x2, rfl, rfl⟩ | ⟨y, x, hy, rfl, rfl⟩
    · exact ⟨rfl, rfl, rfl⟩
    · exact ⟨rfl, decide_eq_true hy, rfl⟩

/-! ## Token lengths (R73) -/

theorem length_encode (p : Params) (i : Instr) : (encode p i).length = i.byteCount := by
  cases i <;> rfl

/-- A back-reference is its first word and its extension bytes. -/
theorem byteCount_decodeRef (v : Variant) (b0 b1 b2 b3 : Byte) :
    (decodeRef v b0 b1 b2 b3).byteCount = 2 + extensionBytes v b0 := by
  have hle := extensionBytes_le v b0
  rw [← length_encode Config.params, (encode_decodeRef Config.params v b0 b1 b2 b3).1]
  simp only [List.length_cons, List.length_take, List.length_nil]
  omega

theorem hiNibble_toNat (b : Byte) : (hiNibble b).toNat = b.toNat / 16 := by
  simp only [hiNibble, BitVec.extractLsb'_toNat, Nat.shiftRight_eq_div_pow]
  omega

theorem loNibble_toNat (b : Byte) : (loNibble b).toNat = b.toNat % 16 := by
  simp only [loNibble, BitVec.extractLsb'_toNat, Nat.shiftRight_zero]

/-- Two bytes of an assembled word do not overlap. -/
theorem shiftLeft_or_byte {a b : Nat} (hb : b < 256) : a <<< 8 ||| b = 256 * a + b := by
  rw [← Nat.shiftLeft_add_eq_or_of_lt (i := 8) hb, Nat.shiftLeft_eq]
  omega

/-- The forms' lengths, by the number a tier nibble stands for. -/
theorem extensionBytes_toNat (v : Variant) (b0 : Byte) :
    2 + extensionBytes v b0 = if (tierOf v b0).toNat = 0 then 3 else if (tierOf v b0).toNat = 1 then 4 else 2 := by
  rcases tier_cases (tierOf v b0) with h | h | h
  · rw [extensionBytes_tier0 h, h]; rfl
  · rw [extensionBytes_tier1 h, h]; rfl
  · rw [extensionBytes_short h, if_neg (by omega), if_neg (by omega)]

/-- Settles O4: the tier is the nibble of the first byte that the assembled word keeps at its top, or at its bottom. -/
theorem tokenLengthFollowsTier : Obligations.TokenLengthFollowsTier := by
  intro b0 b1 b2 b3
  refine ⟨fun v => rfl, ⟨?_, ?_⟩, ?_, ?_⟩
  · rw [shiftLeft_or_byte b1.isLt, Nat.shiftRight_eq_div_pow]
    omega
  · rw [← hiNibble_toNat]
    exact (byteCount_decodeRef .A b0 b1 b2 b3).trans (extensionBytes_toNat .A b0)
  · rw [Nat.or_comm, shiftLeft_or_byte b0.isLt, Nat.and_two_pow_sub_one_eq_mod _ 4]
    omega
  · rw [← loNibble_toNat]
    exact (byteCount_decodeRef .B b0 b1 b2 b3).trans (extensionBytes_toNat .B b0)

end Sys2Proof.Proofs
end

section
namespace Sys2Proof.Proofs
open Sys2Proof Sys2Proof.Machine

/-! ## The back-reference of a length and a distance (R82) -/

/-- The row of a variant whose length range holds `l`, with the fields stored for `l` and `d` (R75 to R80);
`eq_refOf` ties it to `refOperands`. -/
def refOf : Variant → Nat → Nat → Instr
  | .A, l, d =>
    if l ≤ 16 then .refaS (BitVec.ofNat 4 (l - 1)) (BitVec.ofNat 12 (d - 1))
    else if l ≤ 272 then .refaM (BitVec.ofNat 8 (l - 17)) (BitVec.ofNat 12 (d - 1))
    else .refaL (BitVec.ofNat 16 (l - 273)) (BitVec.ofNat 12 (d - 1))
  | .B, l, d =>
    if l ≤ 15 then .refbS (BitVec.ofNat 4 l) (BitVec.ofNat 12 d)
    else if l ≤ 271 then .refbM (BitVec.ofNat 8 (l - 16)) (BitVec.ofNat 12 d)
    else .refbL (BitVec.ofNat 16 (l - 272)) (BitVec.ofNat 12 d)

/-- A back-reference is the one its length and distance name: the length ranges of a variant's forms do not overlap. -/
theorem eq_refOf {v : Variant} {i : Instr} {l d : Nat} (ha : i.appliesIn (.token v true) = true)
    (hi : refOperands i = some (l, d)) : i = refOf v l d := by
  cases v <;> cases i <;> cases ha <;> cases hi
  case A.refaS t e =>
    rw [refOf, if_pos (by unfold lengthAS baseS; omega)]
    simp [lengthAS, baseS, distA]
  case A.refaM m e =>
    rw [refOf, if_neg (by unfold lengthAM baseM; omega), if_pos (by unfold lengthAM baseM; omega)]
    simp [lengthAM, baseM, distA]
  case A.refaL m e =>
    rw [refOf, if_neg (by unfold lengthAL baseL; omega), if_neg (by unfold lengthAL baseL; omega)]
    simp [lengthAL, baseL, distA]
  case B.refbS t e =>
    rw [refOf, if_pos (by unfold lengthBS baseS; omega)]
    simp [lengthBS, baseS, distB]
  case B.refbM m e =>
    rw [refOf, if_neg (by unfold lengthBM baseM; omega), if_pos (by unfold lengthBM baseM; omega)]
    simp [lengthBM, baseM, distB]
  case B.refbL m e =>
    rw [refOf, if_neg (by unfold lengthBL baseL; omega), if_neg (by unfold lengthBL baseL; omega)]
    simp [lengthBL, baseL, distB]

/-- Settles O8: both are the one that the length and the distance name. -/
theorem referenceEncodingIsUnique : Obligations.ReferenceEncodingIsUnique :=
  fun _ _ _ _ _ _ _ hai haj hi hj => (eq_refOf hai hi).trans (eq_refOf haj hj).symm

/-! ## The bytes of the assembler's formulas (R86)

A byte is brought to `asByte n` and a nibble to `BitVec.ofNat 4 n`, in the formulas and in the encoder. -/

/-- A part of a field is its number shifted down. -/
theorem extractLsb'_ofNat {w k m : Nat} (h : k + m ≤ w) (n : Nat) :
    (BitVec.ofNat w n).extractLsb' k m = BitVec.ofNat m (n >>> k) := by
  apply BitVec.eq_of_getLsbD_eq
  intro i hi
  have hki : k + i < w := by omega
  simp only [BitVec.getLsbD_extractLsb', BitVec.getLsbD_ofNat, Nat.testBit_shiftRight, hi, hki, decide_true,
    Bool.true_and]

theorem nibbleOf_ofNat {w k : Nat} (h : k + 4 ≤ w) (n : Nat) :
    (BitVec.ofNat w n).extractLsb' k 4 = BitVec.ofNat 4 (n >>> k) := extractLsb'_ofNat h n

theorem byteOf_ofNat {w k : Nat} (h : k + 8 ≤ w) (n : Nat) :
    (BitVec.ofNat w n).extractLsb' k 8 = asByte (n >>> k) := extractLsb'_ofNat h n

/-- A formula that puts a nibble above another writes the two fields. -/
theorem asByte_nibbles (a : Nat) {b : Nat} (hb : b < 16) :
    asByte (a <<< 4 ||| b) = BitVec.ofNat 4 a ++ BitVec.ofNat 4 b := by
  apply BitVec.eq_of_toNat_eq
  rw [BitVec.toNat_append, ← Nat.shiftLeft_add_eq_or_of_lt (i := 4) hb,
    ← Nat.shiftLeft_add_eq_or_of_lt (BitVec.isLt _), Nat.shiftLeft_eq, Nat.shiftLeft_eq, asByte]
  simp only [BitVec.toNat_ofNat]
  omega

theorem asByte_highNibble (a : Nat) : asByte (a <<< 4) = BitVec.ofNat 4 a ++ 0#4 := by
  simpa only [Nat.or_zero] using asByte_nibbles a (b := 0) (by decide)

theorem asByte_lowNibble {b : Nat} (hb : b < 16) : asByte b = 0#4 ++ BitVec.ofNat 4 b := by
  simpa only [Nat.zero_shiftLeft, Nat.zero_or] using asByte_nibbles 0 hb

/-- A whole byte field is written as it is. -/
theorem asByte_eq (n : Nat) : asByte n = BitVec.ofNat 8 n := rfl

theorem ofNat4_and (n : Nat) : BitVec.ofNat 4 (n &&& 0xF) = BitVec.ofNat 4 n := by
  apply BitVec.eq_of_toNat_eq
  rw [Nat.and_two_pow_sub_one_eq_mod n 4, BitVec.toNat_ofNat, BitVec.toNat_ofNat, Nat.mod_mod]

theorem asByte_and (n : Nat) : asByte (n &&& 0xFF) = asByte n := by
  apply BitVec.eq_of_toNat_eq
  rw [Nat.and_two_pow_sub_one_eq_mod n 8, asByte, asByte, BitVec.toNat_ofNat, BitVec.toNat_ofNat, Nat.mod_mod]

theorem shiftRight_lt_16 {n k : Nat} (h : n < 2 ^ k * 16) : n >>> k < 16 := by
  rw [Nat.shiftRight_eq_div_pow]
  exact Nat.div_lt_of_lt_mul h

/-! ## A statement in range emits the encoding of the row it names, with its operands -/

theorem bytes_hdrA (p : Params) (n : Nat) : Stmt.bytes p (.hdrA n) = encode p (.hdrA (BitVec.ofNat 24 n)) := by
  simp only [Stmt.bytes, encode, byteOf_ofNat, Nat.reduceAdd, Nat.reduceLeDiff, Nat.shiftRight_zero]

theorem bytes_hdrB (p : Params) (n : Nat) : Stmt.bytes p (.hdrB n) = encode p (.hdrB (BitVec.ofNat 24 n)) := by
  simp only [Stmt.bytes, encode, byteOf_ofNat, Nat.reduceAdd, Nat.reduceLeDiff, Nat.shiftRight_zero]

/-- A statement assembles to the encoding of the well-formed row `i`, whose operands are `l` and `d`. -/
structure NamesRow (t : Stmt) (i : Instr) (l d : Nat) : Prop where
  bytes (p : Params) : t.bytes p = encode p i
  wellFormed : i.wellFormed = true
  operands : refOperands i = some (l, d)

section Rows
variable {l d : Nat}

theorem distA_ofNat (h1 : 1 ≤ d) (h : d ≤ 4096) : distA (BitVec.ofNat 12 (d - 1)) = d := by
  rw [distA, BitVec.toNat_ofNat]
  omega

theorem distB_ofNat (h : d ≤ 4095) : distB (BitVec.ofNat 12 d) = d := by
  rw [distB, BitVec.toNat_ofNat]
  omega

theorem refaS_row (h : Stmt.inRange (.refaS l d) = true) :
    NamesRow (.refaS l d) (.refaS (BitVec.ofNat 4 (l - 1)) (BitVec.ofNat 12 (d - 1))) l d := by
  simp only [Stmt.inRange, Bool.and_eq_true, decide_eq_true_eq] at h
  obtain ⟨⟨⟨hl, hl'⟩, hd⟩, hd'⟩ := h
  have hd8 : (d - 1) >>> 8 < 16 := shiftRight_lt_16 (by omega)
  have hlen : lengthAS (BitVec.ofNat 4 (l - 1)) = l := by rw [lengthAS, BitVec.toNat_ofNat, baseS]; omega
  refine ⟨fun p => ?_, decide_eq_true (by rw [BitVec.toNat_ofNat]; omega),
    by rw [refOperands, hlen, distA_ofNat hd hd']⟩
  simp only [Stmt.bytes, encode, nibbleOf_ofNat, byteOf_ofNat, asByte_nibbles _ hd8, asByte_and, Nat.reduceAdd,
    Nat.reduceLeDiff, Nat.shiftRight_zero]

theorem refaM_row (h : Stmt.inRange (.refaM l d) = true) :
    NamesRow (.refaM l d) (.refaM (BitVec.ofNat 8 (l - 17)) (BitVec.ofNat 12 (d - 1))) l d := by
  simp only [Stmt.inRange, Bool.and_eq_true, decide_eq_true_eq] at h
  obtain ⟨⟨⟨hl, hl'⟩, hd⟩, hd'⟩ := h
  have hd8 : (d - 1) >>> 8 < 16 := shiftRight_lt_16 (by omega)
  have hl4 : (l - 17) >>> 4 < 16 := shiftRight_lt_16 (by omega)
  have hlen : lengthAM (BitVec.ofNat 8 (l - 17)) = l := by rw [lengthAM, BitVec.toNat_ofNat, baseM]; omega
  refine ⟨fun p => ?_, rfl, by rw [refOperands, hlen, distA_ofNat hd hd']⟩
  simp only [Stmt.bytes, encode, nibbleOf_ofNat, byteOf_ofNat, asByte_nibbles _ hd8, asByte_lowNibble hl4, asByte_and,
    ofNat4_and, Nat.reduceAdd, Nat.reduceLeDiff, Nat.shiftRight_zero]

theorem refaL_row (h : Stmt.inRange (.refaL l d) = true) :
    NamesRow (.refaL l d) (.refaL (BitVec.ofNat 16 (l - 273)) (BitVec.ofNat 12 (d - 1))) l d := by
  simp only [Stmt.inRange, Bool.and_eq_true, decide_eq_true_eq] at h
  obtain ⟨⟨⟨hl, hl'⟩, hd⟩, hd'⟩ := h
  have hd8 : (d - 1) >>> 8 < 16 := shiftRight_lt_16 (by omega)
  have hb0 : asByte (0x10 ||| ((l - 273) >>> 12)) = 1#4 ++ BitVec.ofNat 4 ((l - 273) >>> 12) :=
    asByte_nibbles 1 (shiftRight_lt_16 (by omega))
  have hlen : lengthAL (BitVec.ofNat 16 (l - 273)) = l := by rw [lengthAL, BitVec.toNat_ofNat, baseL]; omega
  refine ⟨fun p => ?_, rfl, by rw [refOperands, hlen, distA_ofNat hd hd']⟩
  simp only [Stmt.bytes, encode, nibbleOf_ofNat, byteOf_ofNat, asByte_nibbles _ hd8, hb0, asByte_and, ofNat4_and,
    Nat.reduceAdd, Nat.reduceLeDiff, Nat.shiftRight_zero]

theorem refbS_row (h : Stmt.inRange (.refbS l d) = true) :
    NamesRow (.refbS l d) (.refbS (BitVec.ofNat 4 l) (BitVec.ofNat 12 d)) l d := by
  simp only [Stmt.inRange, Bool.and_eq_true, decide_eq_true_eq] at h
  obtain ⟨⟨hl, hl'⟩, hd⟩ := h
  have hl16 : l < 16 := by omega
  have hlen : lengthBS (BitVec.ofNat 4 l) = l := by rw [lengthBS, BitVec.toNat_ofNat, baseS]; omega
  refine ⟨fun p => ?_, decide_eq_true (by rw [BitVec.toNat_ofNat]; omega), by rw [refOperands, hlen, distB_ofNat hd]⟩
  simp only [Stmt.bytes, encode, nibbleOf_ofNat, byteOf_ofNat, asByte_nibbles _ hl16, ofNat4_and, Nat.reduceAdd,
    Nat.reduceLeDiff, Nat.shiftRight_zero]

theorem refbM_row (h : Stmt.inRange (.refbM l d) = true) :
    NamesRow (.refbM l d) (.refbM (BitVec.ofNat 8 (l - 16)) (BitVec.ofNat 12 d)) l d := by
  simp only [Stmt.inRange, Bool.and_eq_true, decide_eq_true_eq] at h
  obtain ⟨⟨hl, hl'⟩, hd⟩ := h
  have hlen : lengthBM (BitVec.ofNat 8 (l - 16)) = l := by rw [lengthBM, BitVec.toNat_ofNat, baseM]; omega
  refine ⟨fun p => ?_, rfl, by rw [refOperands, hlen, distB_ofNat hd]⟩
  simp only [Stmt.bytes, encode, nibbleOf_ofNat, byteOf_ofNat, asByte_highNibble, asByte_eq (l - 16), ofNat4_and, Nat.reduceAdd,
    Nat.reduceLeDiff, Nat.shiftRight_zero]

theorem refbL_row (h : Stmt.inRange (.refbL l d) = true) :
    NamesRow (.refbL l d) (.refbL (BitVec.ofNat 16 (l - 272)) (BitVec.ofNat 12 d)) l d := by
  simp only [Stmt.inRange, Bool.and_eq_true, decide_eq_true_eq] at h
  obtain ⟨⟨hl, hl'⟩, hd⟩ := h
  have hlen : lengthBL (BitVec.ofNat 16 (l - 272)) = l := by rw [lengthBL, BitVec.toNat_ofNat, baseL]; omega
  refine ⟨fun p => ?_, rfl, by rw [refOperands, hlen, distB_ofNat hd]⟩
  simp only [Stmt.bytes, encode, nibbleOf_ofNat, byteOf_ofNat, asByte_nibbles _ (show 1 < 16 by decide), asByte_and,
    ofNat4_and, Nat.reduceAdd, Nat.reduceLeDiff, Nat.shiftRight_zero]

end Rows

/-- Settles O9: a statement in range emits the encoding of its row with the fields stored for its operands, which the
decoder inverts. -/
theorem assembledStatementsDecode : Obligations.AssembledStatementsDecode := by
  intro p rest htags
  have back {i : Instr} {c : Context} {bytes : List Byte} (hb : bytes = encode p i) (hw : i.wellFormed = true)
      (ha : i.appliesIn c = true) : decode p c (bytes ++ rest) = .ok (i, rest) :=
    hb ▸ decodeInvertsEncode p i c rest htags hw ha
  have row {t : Stmt} {i : Instr} {l d : Nat} {c : Context} (h : NamesRow t i l d) (ha : i.appliesIn c = true) :
      decode p c (t.bytes p ++ rest) = .ok (i, rest) ∧ refOperands i = some (l, d) :=
    ⟨back (h.bytes p) h.wellFormed ha, h.operands⟩
  exact ⟨fun n _ => ⟨back (bytes_hdrA p n) rfl rfl, back (bytes_hdrB p n) rfl rfl⟩,
    fun l d h => ⟨_, _, row (refaS_row h) rfl⟩, fun l d h => ⟨_, _, row (refaM_row h) rfl⟩,
    fun l d h => ⟨_, _, row (refaL_row h) rfl⟩, fun l d h => ⟨_, _, row (refbS_row h) rfl⟩,
    fun l d h => ⟨_, _, row (refbM_row h) rfl⟩, fun l d h => ⟨_, _, row (refbL_row h) rfl⟩⟩

/-! ## The fixed words and the pseudo-instructions -/

/-- Settles O1: each word is the encoding of its instruction, which the decoder inverts. -/
theorem writtenOutWordsDecode : Obligations.WrittenOutWordsDecode := by
  intro p htags
  have word (i : Instr) (c : Context) (rest : List Byte) := decodeInvertsEncode p i c rest htags
  exact ⟨word (.hdrA 0xF00401) .header [] rfl rfl, word (.hdrB 10) .header [] rfl rfl,
    word (.flagsA 0x40) (.flags .A) [0xAB] rfl rfl, word (.flagsB 0xC0) (.flags .B) [0x5A] rfl rfl,
    word (.lit 0xAB) (.token .A false) [] rfl rfl, word (.lit 0x80) (.token .B false) [] rfl rfl,
    word (.refaS 5 0x002) (.token .A true) [] rfl rfl, word (.refaM 0x12 0x345) (.token .A true) [] rfl rfl,
    word (.refaL 0xABCD 0xEF0) (.token .A true) [] rfl rfl, word (.refbS 2 0x543) (.token .B true) [] rfl rfl,
    word (.refbM 0x33 0x05A) (.token .B true) [] rfl rfl, word (.refbL 0x011C 0x002) (.token .B true) [] rfl rfl,
    word (.padb2 0x7F 0x55) .trailer [] rfl rfl, word (.padb3 0x12 0x34) .trailer [] rfl rfl, rfl⟩

theorem expand_refA (l d : Nat) : Pseudo.expand .A (.ref l d) =
    if l ≤ 16 then .refaS l d else if l ≤ 272 then .refaM l d else .refaL l d := rfl

theorem expand_refB (l d : Nat) : Pseudo.expand .B (.ref l d) =
    if l ≤ 15 then .refbS l d else if l ≤ 271 then .refbM l d else .refbL l d := rfl

/-- Settles O10: `neg8` is its own inverse, and the form is chosen by the length as the ranges are cut. -/
theorem pseudoInstructionsExpand : Obligations.PseudoInstructionsExpand := by
  refine ⟨fun f => ⟨rfl, rfl, rfl, neg8_neg8 f⟩, fun l d => ?_, fun l d => ?_, fun v => by cases v <;> rfl⟩
  · rw [expand_refA]
    refine ⟨fun h => if_pos h, fun h h' => ?_, fun h => ?_, fun h h' hd hd' => ?_⟩
    · rw [if_neg (by omega), if_pos h']
    · rw [if_neg (by omega), if_neg (by omega)]
    · split_ifs <;> simp only [Stmt.inRange, Bool.and_eq_true, decide_eq_true_eq] <;> omega
  · rw [expand_refB]
    refine ⟨fun h => if_pos h, fun h h' => ?_, fun h => ?_, fun h h' hd => ?_⟩
    · rw [if_neg (by omega), if_pos h']
    · rw [if_neg (by omega), if_neg (by omega)]
    · split_ifs <;> simp only [Stmt.inRange, Bool.and_eq_true, decide_eq_true_eq] <;> omega

end Sys2Proof.Proofs
end

section
namespace Sys2Proof.Proofs
open Sys2Proof Sys2Proof.Machine

/-! ## The bytes the decoder is given are those the block fetches (R50, R85) -/

theorem streamByte_succ (s : State) (a k : Nat) : streamByte s a (k + 1) = streamByte s (a + 1) k := by
  rw [streamByte, streamByte, Nat.add_right_comm, Nat.add_assoc]

/-- A byte that may be read is the byte the fetch sees. -/
theorem streamByte_of_streamBytes {s : State} {n a k : Nat} {b : Byte} (h : (streamBytes s a n)[k]? = some b) :
    streamByte s a k = b := by
  induction n generalizing a k with
  | zero => simp [streamBytes] at h
  | succ n ih =>
    unfold streamBytes at h
    split_ifs at h with ha
    · cases k with
      | zero => simpa [streamByte, ha] using h
      | succ k => rw [streamByte_succ, ih (by simpa using h)]
    · simp at h

theorem fetchHeader_of_decode {s : State} {i : Instr} {rest : List Byte}
    (h : decode s.params .header (streamBytes s 0 4) = .ok (i, rest)) : fetchHeader s = some i := by
  obtain ⟨b0, b1, b2, b3, hb, hi⟩ := decode_header_iff.mp h
  have fetched {k : Nat} {b : Byte} (hk : (b0 :: b1 :: b2 :: b3 :: rest)[k]? = some b) : streamByte s 0 k = b :=
    streamByte_of_streamBytes (hb ▸ hk)
  rw [fetchHeader, fetched (k := 0) rfl, fetched (k := 1) rfl, fetched (k := 2) rfl, fetched (k := 3) rfl, hi]

theorem fetchFlags_of_decode {s : State} {i : Instr} {rest : List Byte}
    (h : decode s.params (.flags s.variant) (streamBytes s s.inCur.toNat 1) = .ok (i, rest)) : fetchFlags s = i := by
  obtain ⟨b, hb, rfl⟩ := decode_flags_iff.mp h
  rw [fetchFlags, streamByte_of_streamBytes (b := b) (by rw [hb]; rfl)]

/-- Bytes past a back-reference's own are not looked at (R75 to R80). -/
theorem decodeRef_congr {v : Variant} {b0 b2 b3 c2 c3 : Byte} (b1 : Byte) (h2 : 1 ≤ extensionBytes v b0 → b2 = c2)
    (h3 : extensionBytes v b0 = 2 → b3 = c3) : decodeRef v b0 b1 b2 b3 = decodeRef v b0 b1 c2 c3 := by
  rcases tier_cases (tierOf v b0) with h | h | h
  · rw [h2 (extensionBytes_tier0 h).ge]
    cases v
    · rw [decodeRefA_tier0 h, decodeRefA_tier0 h]
    · rw [decodeRefB_tier0 h, decodeRefB_tier0 h]
  · rw [h2 (by rw [extensionBytes_tier1 h]; decide), h3 (extensionBytes_tier1 h)]
  · cases v
    · rw [decodeRefA_short h, decodeRefA_short h]
    · rw [decodeRefB_short h, decodeRefB_short h]

theorem fetchToken_of_decode {s : State} {bit : Bool} {i : Instr} {rest : List Byte}
    (h : decode s.params (.token s.variant bit) (streamBytes s s.inCur.toNat 4) = .ok (i, rest)) :
    fetchToken bit s = i := by
  cases bit with
  | false =>
    obtain ⟨b, hb, rfl⟩ := decode_literal_iff.mp h
    show Instr.lit (streamByte s s.inCur.toNat 0) = .lit b
    rw [streamByte_of_streamBytes (b := b) (by rw [hb]; rfl)]
  | true =>
    obtain ⟨b0, b1, ext, hb, hlen, rfl⟩ := decode_ref_iff.mp h
    have fetched {k : Nat} {b : Byte} (hk : (b0 :: b1 :: (ext ++ rest))[k]? = some b) :
        streamByte s s.inCur.toNat k = b := streamByte_of_streamBytes (hb ▸ hk)
    have extended {k : Nat} (hk : k < ext.length) : streamByte s s.inCur.toNat (k + 2) = ext.getD k 0 :=
      fetched (by simp [List.getElem?_append_left hk, hk])
    show decodeRef s.variant (streamByte s s.inCur.toNat 0) (streamByte s s.inCur.toNat 1)
      (streamByte s s.inCur.toNat 2) (streamByte s s.inCur.toNat 3) = _
    rw [fetched (k := 0) rfl, fetched (k := 1) rfl]
    exact decodeRef_congr b1 (fun h2 => extended (k := 0) (by omega)) fun h3 => extended (k := 1) (by omega)

/-! ## A step runs the decoded instruction (R85) -/

/-- Settles O12: an acceptable length passes the size check, and the header fetched is the one decoded. -/
theorem stepRunsHeader : Obligations.StepRunsHeader := by
  intro s i rest hag hp h4 hmax h
  have hsize : sizeBad s ≠ true := by
    rw [Ne, sizeBad_iff]
    omega
  rw [step_of_agenda_nil hag, blockStep, hp]
  show hdrStep s = _
  rw [hdrStep, if_neg hsize, fetchHeader_of_decode h]

/-- With room for output and input left, a TOP step goes on by its mask (R120). -/
theorem step_of_top {s : State} (hag : s.agenda = []) (hp : s.phase = .top) (hout : s.outCur.toNat < s.declLen.toNat)
    (hin : s.inCur.toNat < s.inLen.toNat) : step s = if s.mask = 0 then flagsStep s else tokenStep s := by
  have hloop : loopEnds s ≠ true := by
    rw [Ne, loopEnds_iff]
    omega
  rw [step_of_agenda_nil hag, blockStep, hp]
  exact if_neg hloop

/-- Settles O13: the flags row fetched is the one decoded. -/
theorem stepRunsFlagsByte : Obligations.StepRunsFlagsByte := by
  intro s i rest hag hp hout hin hm h
  obtain rfl := fetchFlags_of_decode h
  exact (step_of_top hag hp hout hin).trans (if_pos hm)

/-- Settles O14: the token fetched is the one decoded, and the mask's shift is no part of the fetch. -/
theorem stepRunsToken : Obligations.StepRunsToken := by
  intro s i rest h
  have htoken : tokenStep s = exec i (shiftMask s) := by
    rw [tokenStep, fetchToken_of_decode (s := shiftMask s) h]
  exact ⟨htoken, fun hag hp hout hin hm => (step_of_top hag hp hout hin).trans ((if_neg hm).trans htoken)⟩

/-- Settles O15: the first padding byte alone chooses the row, and how much is skipped. -/
theorem stepRunsTrailer : Obligations.StepRunsTrailer := by
  intro s i rest hag hp hv h
  have hstep : step s = skipPadding (if streamByte s s.inCur.toNat 0 = 0x80 then 3 else 2) s := by
    rw [step_of_agenda_nil hag, blockStep, hp]
    show postStep s = _
    rw [postStep, hv]
    exact exec_decodeTrailer _ _ _ s
  rw [hstep]
  rcases decode_trailer_iff.mp h with ⟨x1, x2, hb, rfl⟩ | ⟨y, x, hy, hb, rfl⟩
  · rw [streamByte_of_streamBytes (b := 0x80) (by rw [hb]; rfl)]
    rfl
  · rw [streamByte_of_streamBytes (b := y) (by rw [hb]; rfl), if_neg hy]
    rfl

end Sys2Proof.Proofs
end

section
namespace Sys2Proof.Proofs
open Sys2Proof Sys2Proof.Machine

/-! ## The header rows over the checks of R102 and R105 -/

theorem sizeBad_eq_false {s : State} (h4 : 4 ≤ s.inLen.toNat) (hmax : s.inLen.toNat ≤ s.params.maxInLen) :
    sizeBad s = false := by
  rw [← Bool.not_eq_true, sizeBad_iff]
  omega

theorem runHeader_alloc {s : State} (v : Variant) {n : BitVec 24} (hs : sizeBad s = false)
    (hn : s.params.outCap.toNat < n.toNat) : runHeader v n s = .next (raiseFault .alloc (acceptHeader v n s)) := by
  rw [runHeader, hs, if_pos hn]
  rfl

theorem runHeader_accepted {s : State} (v : Variant) {n : BitVec 24} (hs : sizeBad s = false)
    (hn : n.toNat ≤ s.params.outCap.toNat) : runHeader v n s = .next (initDecode (acceptHeader v n s)) := by
  rw [runHeader, hs, if_neg (Nat.not_lt.mpr hn)]
  rfl

/-- Both header rows are the header of their variant (R103). -/
theorem exec_header {i : Instr} {n : BitVec 24} (h : i = .hdrA n ∨ i = .hdrB n) (s : State) :
    ∃ v, exec i s = runHeader v n s := by
  rcases h with rfl | rfl
  · exact ⟨.A, rfl⟩
  · exact ⟨.B, rfl⟩

/-- Settles O25: both checks pass, whatever the variant. -/
theorem headerRowsComplete : Obligations.HeaderRowsComplete := fun _ _ h4 hmax hn =>
  ⟨runHeader_accepted .A (sizeBad_eq_false h4 hmax) hn, runHeader_accepted .B (sizeBad_eq_false h4 hmax) hn⟩

/-- Settles O32: the two rejections and the initialization share a frame, and each leaves the registers that only the
other writes. -/
theorem headerRowsFrame : Obligations.HeaderRowsFrame := by
  intro s t i n hi h
  obtain ⟨v, hrow⟩ := exec_header hi s
  rw [hrow] at h
  rcases runHeader_cases v n s with ⟨-, he⟩ | ⟨-, -, he⟩ | ⟨-, -, he⟩ <;>
    obtain rfl := Host.Outcome.next.inj (he.symm.trans h) <;>
    refine ⟨⟨rfl, rfl, rfl, rfl, rfl, rfl, rfl, rfl, rfl⟩, ⟨rfl, rfl, rfl⟩, ?_, ?_, inByte_congr rfl rfl,
      outByte_congr rfl rfl⟩
  · exact fun _ => ⟨rfl, rfl, rfl⟩
  · exact fun hp => absurd rfl hp
  · exact fun _ => ⟨rfl, rfl, rfl⟩
  · exact fun hp => absurd rfl hp
  · exact fun hp => absurd hp (by simp)
  · exact fun _ => ⟨rfl, rfl, rfl⟩

/-! ## The HDR step by its tag (R103) -/

/-- Below `IN_LEN` a fetch sees the byte that `IN_MEM` holds (R50). -/
theorem streamByte_of_lt {s : State} {a k : Nat} (h : a + k < s.inLen.toNat) : streamByte s a k = inByte s (a + k) :=
  if_pos h

theorem streamByte_of_ge {s : State} {a k : Nat} (h : s.inLen.toNat ≤ a + k) : streamByte s a k = 0 :=
  if_neg (Nat.not_lt.mpr h)

/-- The declared length is little-endian (R54, R104). -/
theorem headerLength_toNat (b1 b2 b3 : Byte) :
    (headerLength b1 b2 b3).toNat = b1.toNat ||| b2.toNat <<< 8 ||| b3.toNat <<< 16 := by
  rw [headerLength, BitVec.toNat_append, BitVec.toNat_append, Nat.shiftLeft_or_distrib, ← Nat.shiftLeft_add,
    Nat.lor_comm, Nat.lor_assoc, Nat.lor_comm (_ <<< 16)]

/-- The declared length in the header that `IN_MEM` holds. -/
def declaredLength (s : State) : BitVec 24 := headerLength (inByte s 1) (inByte s 2) (inByte s 3)

/-- The tag that `IN_MEM` holds selects the variant `v`; `TAG_A` is compared first (R103). -/
def TagSelects (s : State) : Variant → Prop
  | .A => inByte s 0 = s.params.tagA
  | .B => inByte s 0 = s.params.tagB ∧ inByte s 0 ≠ s.params.tagA

/-- A stream of 4 bytes or more holds the header that is fetched. -/
theorem fetchHeader_eq {s : State} (h4 : 4 ≤ s.inLen.toNat) :
    fetchHeader s = decodeHeader s.params (inByte s 0) (inByte s 1) (inByte s 2) (inByte s 3) := by
  rw [fetchHeader, streamByte_of_lt (by omega), streamByte_of_lt (by omega), streamByte_of_lt (by omega),
    streamByte_of_lt (by omega)]

theorem hdrStep_sizeBad {s : State} (h : sizeBad s = true) : hdrStep s = .next (raiseFault .formatSize s) := if_pos h

section Tag
variable {s : State} (h4 : 4 ≤ s.inLen.toNat) (hmax : s.inLen.toNat ≤ s.params.maxInLen)
include h4 hmax

theorem hdrStep_badTag (hA : inByte s 0 ≠ s.params.tagA) (hB : inByte s 0 ≠ s.params.tagB) :
    hdrStep s = .next (raiseFault .formatTag s) := by
  have hrow : fetchHeader s = none := by rw [fetchHeader_eq h4, decodeHeader, if_neg hA, if_neg hB]
  rw [hdrStep, sizeBad_eq_false h4 hmax, hrow]
  rfl

theorem hdrStep_of_tagSelects {v : Variant} (htag : TagSelects s v) :
    hdrStep s = runHeader v (declaredLength s) s := by
  rw [hdrStep, sizeBad_eq_false h4 hmax, fetchHeader_eq h4]
  cases v with
  | A => rw [decodeHeader_iff.mpr (.inl ⟨htag, rfl⟩)]; rfl
  | B => rw [decodeHeader_iff.mpr (.inr ⟨htag.2, htag.1, rfl⟩)]; rfl

end Tag

theorem blockStep_hdr {s : State} (hp : s.phase = .hdr) : blockStep s = hdrStep s := by
  rw [blockStep, hp]

theorem blockStep_top {s : State} (hp : s.phase = .top) : blockStep s = topStep s := by
  rw [blockStep, hp]

theorem blockStep_post {s : State} (hp : s.phase = .post) : blockStep s = postStep s := by
  rw [blockStep, hp]

theorem variantBit_eq (v : Variant) : variantBit v = decide (v = .B) := by
  cases v <;> rfl

/-- Settles O17: the checks in order, on the header that `IN_MEM` holds. -/
theorem headerStep : Obligations.HeaderStep := by
  intro s n hp hn
  have hdecl : (declaredLength s).toNat = n := (headerLength_toNat _ _ _).trans hn.symm
  rw [blockStep_hdr hp]
  refine ⟨fun hsize => hdrStep_sizeBad ((sizeBad_iff s).mpr hsize), fun h4 hmax => ⟨hdrStep_badTag h4 hmax, ?_⟩⟩
  intro v hA hB
  have htag : TagSelects s v := by
    cases v with
    | A => exact hA rfl
    | B => exact hB rfl
  have hsize := sizeBad_eq_false h4 hmax
  rw [hdrStep_of_tagSelects h4 hmax htag, ← variantBit_eq, ← hdecl, BitVec.ofNat_toNat, BitVec.setWidth_eq]
  exact ⟨runHeader_alloc v hsize, runHeader_accepted v hsize⟩

/-! ## A declared length of 0 (R107) -/

/-- How many bytes the POST step skips (R201, R202). -/
def postSkip (s : State) : Nat :=
  match s.variant with
  | .A => 0
  | .B => if streamByte s s.inCur.toNat 0 = 0x80 then 3 else 2

/-- The POST step completes after its skip (R201 to R206). -/
theorem postStep_eq {s : State} (hmax : s.inLen.toNat ≤ s.params.maxInLen) :
    postStep s = .next (finish (advanceIn (postSkip s) s)) := by
  unfold postStep postSkip
  cases s.variant with
  | A => simp [advanceIn]
  | B => exact (exec_decodeTrailer _ _ _ s).trans (skipPadding_ok _ hmax)

/-- The state in which the loop of an empty stream has ended. -/
def emptyLoopEnd (v : Variant) (s : State) : State := gotoPost (initDecode (acceptHeader v 0 s))

/-- At the end of a 4-byte stream no byte is left, and variant B still skips 2 (R107, R201). -/
theorem postSkip_emptyLoopEnd (v : Variant) {s : State} (hlen : s.inLen = 4) :
    postSkip (emptyLoopEnd v s) = if v = .A then 0 else 2 := by
  cases v with
  | A => rfl
  | B =>
    have hbyte : streamByte (emptyLoopEnd .B s) 4 0 = 0 := streamByte_of_ge (by simp [emptyLoopEnd, hlen])
    show (if streamByte (emptyLoopEnd .B s) 4 0 = 0x80 then 3 else 2) = 2
    rw [hbyte]
    rfl

/-- The header, the loop test and POST: three steps (R107). -/
theorem run_emptyStream {s : State} {v : Variant} (hag : s.agenda = []) (hp : s.phase = .hdr) (h4 : 4 ≤ s.inLen.toNat)
    (hmax : s.inLen.toNat ≤ s.params.maxInLen) (htag : TagSelects s v) (hdecl : declaredLength s = 0) :
    run 3 s = .next (finish (advanceIn (postSkip (emptyLoopEnd v s)) (emptyLoopEnd v s))) := by
  have hhdr : step s = .next (initDecode (acceptHeader v 0 s)) := by
    rw [step_of_agenda_nil hag, blockStep_hdr hp, hdrStep_of_tagSelects h4 hmax htag, hdecl]
    exact runHeader_accepted v (sizeBad_eq_false h4 hmax) (Nat.zero_le _)
  have hloop : loopEnds (initDecode (acceptHeader v 0 s)) = true := (loopEnds_iff _).mpr (.inl le_rfl)
  have htop : step (initDecode (acceptHeader v 0 s)) = .next (emptyLoopEnd v s) := by
    rw [step_of_agenda_nil (by exact hag), blockStep_top rfl, topStep, if_pos hloop]
    rfl
  have hpost : step (emptyLoopEnd v s) =
      .next (finish (advanceIn (postSkip (emptyLoopEnd v s)) (emptyLoopEnd v s))) := by
    rw [step_of_agenda_nil (by exact hag), blockStep_post rfl]
    exact postStep_eq hmax
  rw [run_succ_of_next hhdr, run_succ_of_next htop, run_succ_of_next hpost, run_zero]

/-- An empty output is complete, so the only warning is of an input cursor that the skip leaves off the input's end
(R203, R204). -/
theorem warningList_empty {s : State} (hs : s.status = Status.clear) (v : Variant) (n : Nat) :
    warningList (finish (advanceIn n (emptyLoopEnd v s))).status =
      if 4 + BitVec.ofNat 32 n = s.inLen then [] else [.trailingData] := by
  have hclear : (advanceIn n (emptyLoopEnd v s)).status =
      { Status.clear with variantB := variantBit v, variantValid := true } := by
    rw [← hs]
    rfl
  have htrunc : truncated (advanceIn n (emptyLoopEnd v s)) = false := rfl
  have htrail : trailing (advanceIn n (emptyLoopEnd v s)) = decide (4 + BitVec.ofNat 32 n ≠ s.inLen) := rfl
  rw [finish_status, completionWarnings, hclear, htrunc, htrail]
  simp [warningList, Status.clear]

/-- Settles O18: the loop ends at its first test, and POST skips nothing or variant B's padding. -/
theorem emptyStreamCompletes : Obligations.EmptyStreamCompletes := by
  intro s hinv hag hp h4 hmax htag h1 h2 h3
  have hfresh := (inv_iff_of_idle_or_hdr (.inr hp)).mp hinv
  have hne : s.params.tagA ≠ s.params.tagB := hfresh.legal.1
  have hdecl : declaredLength s = 0 := by
    rw [declaredLength, h1, h2, h3]
    rfl
  rcases htag with hA | hB
  · refine ⟨_, run_emptyStream (v := .A) hag hp h4 hmax hA hdecl, rfl, rfl, fun hlen _ => ?_,
      fun _ hB => absurd (hA.symm.trans hB) hne⟩
    rw [warningList_empty hfresh.status, postSkip_emptyLoopEnd .A hlen, hlen]
    exact ⟨rfl, rfl⟩
  · have hA : inByte s 0 ≠ s.params.tagA := fun hA => hne (hA.symm.trans hB)
    refine ⟨_, run_emptyStream (v := .B) hag hp h4 hmax ⟨hB, hA⟩ hdecl, rfl, rfl, fun _ hA' => absurd hA' hA,
      fun hlen _ => ?_⟩
    rw [warningList_empty hfresh.status, postSkip_emptyLoopEnd .B hlen, hlen]
    exact ⟨rfl, rfl⟩

/-! ## START (R100, R101) -/

theorem hostMove_ctrl (s : State) (v : Word) :
    hostMove (.writeReg 0x00 .word v) s = .next (if v.getLsbD 0 then requestStart s else s) := by
  rw [hostMove_writeReg rfl (by decide), regWrite_ctrl]

theorem requestStart_of_busy {s : State} (hb : s.phase.busy = true) : requestStart s = s := if_pos hb

theorem requestStart_of_not_busy {s : State} (hb : s.phase.busy = false) : requestStart s = start s := by
  rw [requestStart, hb]
  rfl

/-- BUSY is HDR, TOP, COPY and POST (R32). -/
theorem busy_values (p : Phase) :
    (p = .idle ∨ p = .done ∨ p = .error → p.busy = false) ∧
      (p = .hdr ∨ p = .top ∨ p = .copy ∨ p = .post → p.busy = true) := by
  cases p <;> decide

/-- Settles O37: `CTRL` acts by its bit 0, and START by whether the phase is BUSY. -/
theorem startIsAcceptedWhenNotBusy : Obligations.StartIsAcceptedWhenNotBusy := by
  intro s v
  obtain ⟨hrest, hbusy⟩ := busy_values s.phase
  rw [hostMove_ctrl]
  refine ⟨fun hv hp => ?_, fun hv hp => ?_, fun hv => ?_⟩
  · rw [hv, if_pos rfl, requestStart_of_not_busy (hrest hp)]
    rfl
  · rw [hv, if_pos rfl, requestStart_of_busy (hbusy hp)]
  · rw [hv]
    rfl

end Sys2Proof.Proofs
end

section
namespace Sys2Proof.Proofs
open Sys2Proof Sys2Proof.Machine

/-! ## The flags rows and the literal with and without a byte left (R121, R122, R124, R125) -/

theorem exec_decodeFlags_of_bytesLeft {s : State} (h : bytesLeft 1 s) (v : Variant) (b : Byte) :
    exec (decodeFlags v b) s = .next (loadFlags (effectiveFlags v b) (advanceIn 1 s)) := by
  obtain ⟨hin, hm⟩ := h
  rw [exec_decodeFlags, readStream_ok _ hin (hin.trans hm)]

/-- Settles O26: both rows are the flags fetch of their variant. -/
theorem flagsRowsComplete : Obligations.FlagsRowsComplete := fun _ raw h =>
  ⟨exec_decodeFlags_of_bytesLeft h .A raw, exec_decodeFlags_of_bytesLeft h .B raw⟩

theorem exec_lit_of_bytesLeft {s : State} (b : Byte) (h : bytesLeft 1 s)
    (ho : s.outCur.toNat < s.params.outCap.toNat) :
    exec (.lit b) s = .next { putByte b (advanceIn 1 s) with phase := .top } := by
  obtain ⟨hin, hm⟩ := h
  rw [exec_lit, readStream_ok _ hin (hin.trans hm), writeOut_ok (s := advanceIn 1 s) _ ho]

theorem exec_lit_of_short {s : State} (b : Byte) (h : s.inLen.toNat ≤ s.inCur.toNat) :
    exec (.lit b) s = .next (gotoPost s) := by
  rw [exec_lit, readStream_short _ (Nat.lt_succ_of_le h)]

/-- Settles O27: the read step and the store are both made. -/
theorem literalRowCompletes : Obligations.LiteralRowCompletes := fun _ b h ho => exec_lit_of_bytesLeft b h ho

/-! ## What these rows leave unchanged -/

/-- Both flags rows are the flags byte of their variant (R72). -/
theorem exists_eq_decodeFlags {i : Instr} {raw : Byte} (h : i = .flagsA raw ∨ i = .flagsB raw) :
    ∃ v, i = decodeFlags v raw := by
  rcases h with rfl | rfl
  · exact ⟨.A, rfl⟩
  · exact ⟨.B, rfl⟩

/-- Settles O33: cut short, a flags row changes the phase alone, and otherwise its three registers. -/
theorem flagsRowsFrame : Obligations.FlagsRowsFrame := by
  intro s t i raw hi h
  obtain ⟨v, rfl⟩ := exists_eq_decodeFlags hi
  rcases exec_flags_next h with ⟨-, rfl⟩ | ⟨-, rfl⟩ <;>
    exact ⟨⟨rfl, rfl, rfl, rfl, rfl, rfl, rfl, rfl, rfl, rfl, rfl, rfl, rfl, rfl⟩, inByte_congr rfl rfl,
      outByte_congr rfl rfl⟩

/-- Settles O34: cut short, a literal changes the phase alone, and otherwise it appends one byte. -/
theorem literalRowFrame : Obligations.LiteralRowFrame := by
  intro s t b h
  rcases exec_lit_next h with ⟨-, rfl⟩ | ⟨-, -, rfl⟩ <;>
    refine ⟨⟨rfl, rfl, rfl, rfl, rfl, rfl, rfl, rfl, rfl, rfl, rfl, rfl, rfl, rfl, rfl⟩, inByte_congr rfl rfl,
      ?_, ?_⟩
  · exact fun a _ => outByte_congr rfl rfl a
  · exact fun _ => ⟨rfl, outByte_congr rfl rfl⟩
  · exact fun a ha => outByte_putByte_ne b (advanceIn 1 s) ha
  · exact fun hp => absurd hp (by simp)

/-! ## How an iteration chooses (R120, R123) -/

theorem topStep_of_loopEnds {s : State} (h : s.declLen.toNat ≤ s.outCur.toNat ∨ s.inLen.toNat ≤ s.inCur.toNat) :
    topStep s = .next (gotoPost s) := if_pos ((loopEnds_iff s).mpr h)

/-- With room for output and input left, the mask decides between a flags fetch and a token. -/
theorem topStep_of_loopGoesOn {s : State} (hout : s.outCur.toNat < s.declLen.toNat)
    (hin : s.inCur.toNat < s.inLen.toNat) : topStep s = if s.mask = 0 then flagsStep s else tokenStep s := by
  refine if_neg ?_
  rw [loopEnds_iff]
  omega

theorem flagBit_iff (s : State) : flagBit s = true ↔ s.flags &&& s.mask ≠ 0 := decide_eq_true_iff

/-- Flag bit 0 selects a literal; the mask's shift is no part of the fetch. -/
theorem tokenStep_of_flagBit_clear {s : State} (h : s.flags &&& s.mask = 0) :
    tokenStep s = exec (.lit (streamByte s s.inCur.toNat 0)) (shiftMask s) := by
  have hbit : flagBit s = false := by rw [← Bool.not_eq_true, flagBit_iff, not_not, h]
  rw [tokenStep, hbit]
  rfl

/-- Flag bit 1 selects the back-reference of the variant. -/
theorem tokenStep_of_flagBit_set {s : State} (h : s.flags &&& s.mask ≠ 0) :
    tokenStep s =
      exec (decodeRef s.variant (streamByte s s.inCur.toNat 0) (streamByte s s.inCur.toNat 1)
        (streamByte s s.inCur.toNat 2) (streamByte s s.inCur.toNat 3)) (shiftMask s) := by
  rw [tokenStep, (flagBit_iff s).mpr h]
  rfl

/-- Settles O20: the loop test decides first, then the mask, then the flag bit. -/
theorem iterationChoosesItsToken : Obligations.IterationChoosesItsToken := by
  refine ⟨fun s hp => ?_, fun s => ⟨tokenStep_of_flagBit_clear, tokenStep_of_flagBit_set⟩, by decide⟩
  rw [blockStep_top hp]
  refine ⟨topStep_of_loopEnds, fun hout hin => ?_⟩
  rw [topStep_of_loopGoesOn hout hin]
  exact ⟨fun hm => if_pos hm, fun hm => if_neg hm⟩

/-! ## The flags fetch and the literal of an iteration -/

theorem streamByte_at_inCur {s : State} (h : s.inCur.toNat < s.inLen.toNat) :
    streamByte s s.inCur.toNat 0 = inByte s s.inCur.toNat := streamByte_of_lt h

/-- The flags fetch loads the byte at the cursor, and its iteration goes on with the bit test (R121, R122). -/
theorem flagsStep_eq_of_bytesLeft {s : State} {v : Variant} (h : bytesLeft 1 s) (hv : s.variant = v) :
    flagsStep s = tokenStep (loadFlags (effectiveFlags v (inByte s s.inCur.toNat)) (advanceIn 1 s)) := by
  rw [flagsStep, fetchFlags, streamByte_at_inCur h.1, exec_decodeFlags_of_bytesLeft h, hv]

/-- Settles O19: the loop test has found the byte that the fetch reads. -/
theorem flagsFetchLoadsFlags : Obligations.FlagsFetchLoadsFlags := by
  intro s hp hmask hout hin hmax
  rw [blockStep_top hp, topStep_of_loopGoesOn hout hin, if_pos hmask]
  exact ⟨flagsStep_eq_of_bytesLeft ⟨hin, hmax⟩, flagsStep_eq_of_bytesLeft ⟨hin, hmax⟩⟩

/-- Settles O21: the token is LIT of the byte at the cursor, which is cut short or appends that byte. -/
theorem literalIterationCopiesByte : Obligations.LiteralIterationCopiesByte := by
  intro s hbit
  rw [tokenStep_of_flagBit_clear hbit]
  refine ⟨fun hend => exec_lit_of_short (s := shiftMask s) _ hend, fun hin hmax ho => ?_⟩
  rw [streamByte_at_inCur hin]
  exact ⟨_, exec_lit_of_bytesLeft (s := shiftMask s) _ ⟨hin, hmax⟩ ho, rfl,
    outByte_putByte_same _ (advanceIn 1 (shiftMask s)),
    fun a ha => outByte_putByte_ne _ (advanceIn 1 (shiftMask s)) ha⟩

/-! ## Every iteration consumes input or ends the loop (R127) -/

/-- The input cursor has not moved back or past the input, and it has moved forward unless the loop ended. -/
def ConsumesOrEnds (s t : State) : Prop :=
  s.inCur.toNat ≤ t.inCur.toNat ∧ t.inCur.toNat ≤ s.inLen.toNat ∧
    (t.phase = .post ∨ s.inCur.toNat < t.inCur.toNat)

/-- Consuming `n` bytes of those left will do, and none where the loop ends. -/
theorem consumesOrEnds_of_advance {s t : State} (n : Nat) (hn : s.inCur.toNat + n ≤ s.inLen.toNat)
    (ht : t.inCur = (advanceIn n s).inCur) (hp : t.phase = .post ∨ 0 < n) : ConsumesOrEnds s t := by
  have hcur : t.inCur.toNat = s.inCur.toNat + n := by rw [ht, advanceIn_inCur_toNat hn]
  exact ⟨by omega, by omega, hp.imp_right fun _ => by omega⟩

theorem consumesOrEnds_gotoPost {s : State} (hin : s.inCur.toNat ≤ s.inLen.toNat) : ConsumesOrEnds s (gotoPost s) :=
  ⟨le_rfl, hin, .inl rfl⟩

/-- What becomes of a parsed back-reference consumes nothing more. -/
theorem runRef_inCur {l d : Nat} {s t : State} (h : runRef l d s = .next t) : t.inCur = s.inCur := by
  rcases runRef_cases l d s with ⟨-, he⟩ | ⟨-, -, -, he⟩ | ⟨-, -, -, he⟩ <;>
    obtain rfl := Host.Outcome.next.inj (he.symm.trans h) <;> rfl

theorem tokenStep_consumesOrEnds {s t : State} (hin : s.inCur.toNat ≤ s.inLen.toNat) (h : tokenStep s = .next t) :
    ConsumesOrEnds s t := by
  rcases tokenStep_cases s with ⟨b, he⟩ | ⟨i, l, d, hi, -, -, -, hbytes, he⟩ <;> rw [he] at h
  · rcases exec_lit_next h with ⟨-, rfl⟩ | ⟨hleft, -, rfl⟩
    · exact consumesOrEnds_gotoPost hin
    · exact consumesOrEnds_of_advance 1 hleft rfl (.inr one_pos)
  · rcases exec_ref_next hi h with ⟨k, n, -, hk, rfl⟩ | ⟨hleft, hr⟩
    · exact consumesOrEnds_of_advance k (hk.trans (max_eq_right hin).le) rfl (.inl rfl)
    · exact consumesOrEnds_of_advance i.byteCount hleft (runRef_inCur hr :) (.inr (by omega))

/-- Settles O48: the loop ends at once, or a token consumes, after a flags byte where one is fetched. -/
theorem iterationConsumesOrEnds : Obligations.IterationConsumesOrEnds := by
  intro s t hp hin h
  rw [blockStep_top hp] at h
  rcases topStep_next h with ⟨-, rfl⟩ | ⟨-, hlt, ⟨-, ht⟩ | ⟨-, f, ht⟩⟩
  · exact consumesOrEnds_gotoPost hin
  · exact tokenStep_consumesOrEnds hin ht
  · have hfetch : (loadFlags f (advanceIn 1 s)).inCur.toNat = s.inCur.toNat + 1 := advanceIn_inCur_toNat hlt
    obtain ⟨hback, hpast, -⟩ := tokenStep_consumesOrEnds (hfetch.trans_le hlt) ht
    rw [hfetch] at hback
    exact ⟨by omega, hpast, .inr hback⟩

end Sys2Proof.Proofs
end

section
namespace Sys2Proof.Proofs
open Sys2Proof Sys2Proof.Machine

/-! ## The operands as the parsers fold them (R140 to R143, R160 to R163) -/

theorem toNat_append_byte {n : Nat} (a : BitVec n) (b : Byte) : (a ++ b).toNat = 256 * a.toNat + b.toNat := by
  rw [BitVec.toNat_append, shiftLeft_or_byte b.isLt]

theorem toNat_append_nibble {n : Nat} (a : BitVec n) (b : BitVec 4) : (a ++ b).toNat = 16 * a.toNat + b.toNat := by
  rw [BitVec.toNat_append, ← Nat.shiftLeft_add_eq_or_of_lt b.isLt, Nat.shiftLeft_eq, Nat.mul_comm]

/-- Variant A: the fold of the first word keeps the tier at its top, and the mask takes it off before the next fold. -/
theorem refOperands_decodeRefA (b0 b1 b2 b3 : Byte) {v w u : Nat} (hv : v = 256 * b0.toNat + b1.toNat)
    (hw : w = 256 * (v % 2 ^ 12) + b2.toNat) (hu : u = 256 * w + b3.toNat) :
    refOperands (decodeRef .A b0 b1 b2 b3) =
      some (if v / 2 ^ 12 = 0 then (w / 2 ^ 12 + 16 + 1, w % 2 ^ 12 + 1)
        else if v / 2 ^ 12 = 1 then (u / 2 ^ 12 + 272 + 1, u % 2 ^ 12 + 1)
        else (v / 2 ^ 12 + 0 + 1, v % 2 ^ 12 + 1)) := by
  have htier : v / 2 ^ 12 = (tierOf .A b0).toNat := by
    rw [tierOf, hiNibble_toNat]
    omega
  rcases tier_cases (tierOf .A b0) with h | h | h
  · rw [decodeRefA_tier0 h, if_pos (by rw [htier, h]; rfl)]
    simp only [refOperands, lengthAM, baseM, distA, toNat_append_nibble, toNat_append_byte, hiNibble_toNat,
      loNibble_toNat, Option.some.injEq, Prod.mk.injEq]
    omega
  · rw [decodeRefA_tier1 h, if_neg (by rw [htier, h]; decide), if_pos (by rw [htier, h]; rfl)]
    simp only [refOperands, lengthAL, baseL, distA, toNat_append_nibble, toNat_append_byte, hiNibble_toNat,
      loNibble_toNat, Option.some.injEq, Prod.mk.injEq]
    omega
  · rw [decodeRefA_short h, if_neg (by omega), if_neg (by omega), htier]
    simp only [refOperands, lengthAS, baseS, distA, toNat_append_byte, loNibble_toNat, Option.some.injEq,
      Prod.mk.injEq, true_and]
    omega

/-- Variant B: the tier is at the bottom of the first word, and the length has bytes of its own. -/
theorem refOperands_decodeRefB (b0 b1 b2 b3 : Byte) {x : Nat} (hx : x = 256 * b1.toNat + b0.toNat) :
    refOperands (decodeRef .B b0 b1 b2 b3) =
      some (if x % 2 ^ 4 = 0 then (b2.toNat + 16, x / 2 ^ 4)
        else if x % 2 ^ 4 = 1 then (256 * b3.toNat + b2.toNat + 272, x / 2 ^ 4)
        else (x % 2 ^ 4, x / 2 ^ 4)) := by
  have htier : x % 2 ^ 4 = (tierOf .B b0).toNat := by
    rw [tierOf, loNibble_toNat]
    omega
  have hdist : distB (b1 ++ hiNibble b0) = x / 2 ^ 4 := by
    rw [distB, toNat_append_nibble, hiNibble_toNat]
    omega
  rcases tier_cases (tierOf .B b0) with h | h | h
  · rw [decodeRefB_tier0 h, if_pos (by rw [htier, h]; rfl), refOperands, hdist, lengthBM, baseM]
  · rw [decodeRefB_tier1 h, if_neg (by rw [htier, h]; decide), if_pos (by rw [htier, h]; rfl), refOperands, hdist,
      lengthBL, baseL, toNat_append_byte]
  · rw [decodeRefB_short h, if_neg (by omega), if_neg (by omega), refOperands, hdist, htier, lengthBS, baseS,
      Nat.add_zero]

/-- Settles O5: the parsers' shifts and masks are sums, quotients and remainders of the bytes. -/
theorem referenceOperandsFollowParsers : Obligations.ReferenceOperandsFollowParsers := by
  intro b0 b1 b2 b3 v w u x hv hw hu hx
  rw [shiftLeft_or_byte b1.isLt] at hv
  rw [shiftLeft_or_byte b2.isLt, Nat.and_two_pow_sub_one_eq_mod _ 12] at hw
  rw [shiftLeft_or_byte b3.isLt] at hu
  rw [Nat.or_comm, shiftLeft_or_byte b0.isLt] at hx
  simp only [Nat.shiftRight_eq_div_pow, Nat.and_two_pow_sub_one_eq_mod _ 12, Nat.and_two_pow_sub_one_eq_mod _ 4,
    shiftLeft_or_byte b2.isLt]
  exact ⟨refOperands_decodeRefA b0 b1 b2 b3 hv hw hu, refOperands_decodeRefB b0 b1 b2 b3 hx⟩

/-! ## The ranges of variant A (R145) -/

theorem distA_range (d : BitVec 12) : 1 ≤ distA d ∧ distA d ≤ 4096 := by
  unfold distA
  omega

/-- What a variant A reference delivers: the form's length range, and a distance that is never 0 (R145). -/
theorem variantA_operands_range {i : Instr} {l d : Nat} (hw : i.wellFormed = true)
    (ha : i.appliesIn (.token .A true) = true) (hi : refOperands i = some (l, d)) :
    3 ≤ l ∧ l ≤ 65808 ∧ 1 ≤ d ∧ d ≤ 4096 ∧ i.byteCount = if l ≤ 16 then 2 else if l ≤ 272 then 3 else 4 := by
  cases i <;> cases ha <;> cases hi
  case refaS t e =>
    have ht : 2 ≤ t.toNat := of_decide_eq_true hw
    have hl : 3 ≤ lengthAS t ∧ lengthAS t ≤ 16 := by unfold lengthAS baseS; omega
    exact ⟨hl.1, by omega, (distA_range e).1, (distA_range e).2, (if_pos hl.2).symm⟩
  case refaM m e =>
    have hl : 17 ≤ lengthAM m ∧ lengthAM m ≤ 272 := by unfold lengthAM baseM; omega
    exact ⟨by omega, by omega, (distA_range e).1, (distA_range e).2, by rw [if_neg (by omega), if_pos hl.2]; rfl⟩
  case refaL m e =>
    have hl : 273 ≤ lengthAL m ∧ lengthAL m ≤ 65808 := by unfold lengthAL baseL; omega
    exact ⟨by omega, hl.2, (distA_range e).1, (distA_range e).2, by rw [if_neg (by omega), if_neg (by omega)]; rfl⟩

/-- Settles O6: the ranges bound every reference, and each length and distance in them is what an assembler statement
names. -/
theorem variantARanges : Obligations.VariantARanges := by
  refine ⟨fun i l d => variantA_operands_range, fun l d hd hd' => ⟨fun hl hl' => ?_, fun hl hl' => ?_, fun hl hl' => ?_⟩⟩
  · have row := refaS_row (l := l) (d := d) (by simp [Stmt.inRange, *])
    exact ⟨_, _, row.wellFormed, row.operands⟩
  · exact ⟨_, _, (refaM_row (by simp [Stmt.inRange, *])).operands⟩
  · exact ⟨_, _, (refaL_row (by simp [Stmt.inRange, *])).operands⟩

/-! ## A reference row with all its bytes left (R181, R182) -/

/-- A parsed back-reference of legal distance begins its copy, with the length clamped to the space left. -/
theorem runRef_of_legal {l d : Nat} {s : State} (h1 : 1 ≤ d) (hd : d ≤ s.outCur.toNat) :
    runRef l d s =
      .next { s with
        dist := BitVec.ofNat 13 d
        length := BitVec.ofNat 17 (min l (spaceLeft s))
        count := BitVec.ofNat 17 (min l (spaceLeft s))
        status := { s.status with warnOverrun := s.status.warnOverrun || decide (spaceLeft s < l) }
        phase := .copy } := by
  rcases runRef_cases l d s with ⟨hbad, -⟩ | ⟨-, -, hlong, he⟩ | ⟨-, -, hfit, he⟩
  · omega
  · rw [he, min_eq_right hlong.le, decide_eq_true hlong, Bool.or_true]
    rfl
  · rw [he, min_eq_left hfit, decide_eq_false (by omega), Bool.or_false]
    rfl

/-- Settles O28: the row parses its token and runs it. -/
theorem referenceRowsComplete : Obligations.ReferenceRowsComplete := by
  intro s i l d hi hleft h1 hd
  rw [exec_ref_of_bytesLeft hi hleft]
  exact runRef_of_legal (s := advanceIn i.byteCount s) h1 hd

/-! ## A reference row with its token cut short (R140, R144, R160, R164) -/

/-- Settles O31: a cut token consumes nothing, or all that was left. -/
theorem cutTokenEndsLoop : Obligations.CutTokenEndsLoop := by
  intro s i l d k hi hmax hin hk hshort
  obtain ⟨t, ht⟩ := exec_ref_progress hi hmax
  refine ⟨t, ht, ?_⟩
  rcases exec_ref_next hi ht with ⟨m, n, hm, -, rfl⟩ | ⟨hleft, -⟩
  · have hcur : BitVec.ofNat 32 m = if k < 2 then 0 else BitVec.ofNat 32 k := by
      rcases hm with ⟨rfl, hlt⟩ | ⟨h2, -, hend⟩
      · exact (if_pos (by omega)).symm
      · rw [if_neg (by omega), hk, ← hend, Nat.add_sub_cancel_left]
    exact ⟨rfl, congrArg (s.inCur + ·) hcur, rfl, rfl, rfl, rfl, rfl⟩
  · omega

/-! ## What the reference rows leave unchanged -/

/-- Settles O35: a cut token leaves the loop, and a parsed one is a bad distance or the beginning of a copy. -/
theorem referenceRowsFrame : Obligations.ReferenceRowsFrame := by
  intro s t i l d hi h
  rcases exec_ref_next hi h with ⟨k, n, -, -, rfl⟩ | ⟨-, hr⟩
  · exact ⟨⟨rfl, rfl, rfl, rfl, rfl, rfl, rfl, rfl, rfl, rfl⟩, ⟨rfl, rfl, rfl, rfl⟩, fun _ => ⟨rfl, rfl, rfl⟩,
      fun _ => ⟨rfl, rfl⟩, inByte_congr rfl rfl, outByte_congr rfl rfl⟩
  · rcases runRef_cases l d (advanceIn i.byteCount s) with ⟨-, he⟩ | ⟨-, -, -, he⟩ | ⟨-, -, -, he⟩ <;>
      obtain rfl := Host.Outcome.next.inj (he.symm.trans hr) <;>
      refine ⟨⟨rfl, rfl, rfl, rfl, rfl, rfl, rfl, rfl, rfl, rfl⟩, ⟨rfl, rfl, rfl, rfl⟩, fun hne => ?_, fun hnc => ?_,
        inByte_congr rfl rfl, outByte_congr rfl rfl⟩
    · exact absurd rfl hne
    · exact ⟨rfl, rfl⟩
    · exact ⟨rfl, rfl, rfl⟩
    · exact absurd rfl hnc
    · exact ⟨rfl, rfl, rfl⟩
    · exact absurd rfl hnc

end Sys2Proof.Proofs
end

section
namespace Sys2Proof.Proofs
open Sys2Proof Sys2Proof.Machine

/-! ## The ranges of variant B (R165) -/

theorem distB_le (d : BitVec 12) : distB d ≤ 4095 := by
  unfold distB
  omega

/-- What a variant B reference delivers: the form's length range, and the stored distance as it is (R165). -/
theorem variantB_operands_range {i : Instr} {l d : Nat} (hw : i.wellFormed = true)
    (ha : i.appliesIn (.token .B true) = true) (hi : refOperands i = some (l, d)) :
    2 ≤ l ∧ l ≤ 65807 ∧ d ≤ 4095 ∧ i.byteCount = if l ≤ 15 then 2 else if l ≤ 271 then 3 else 4 := by
  cases i <;> cases ha <;> cases hi
  case refbS t e =>
    have ht : 2 ≤ t.toNat := of_decide_eq_true hw
    have hl : 2 ≤ lengthBS t ∧ lengthBS t ≤ 15 := by unfold lengthBS baseS; omega
    exact ⟨hl.1, by omega, distB_le e, (if_pos hl.2).symm⟩
  case refbM m e =>
    have hl : 16 ≤ lengthBM m ∧ lengthBM m ≤ 271 := by unfold lengthBM baseM; omega
    exact ⟨by omega, by omega, distB_le e, by rw [if_neg (by omega), if_pos hl.2]; rfl⟩
  case refbL m e =>
    have hl : 272 ≤ lengthBL m ∧ lengthBL m ≤ 65807 := by unfold lengthBL baseL; omega
    exact ⟨by omega, hl.2, distB_le e, by rw [if_neg (by omega), if_neg (by omega)]; rfl⟩

/-- Settles O7: the ranges bound every reference, and each length and distance in them is what an assembler statement
names. -/
theorem variantBRanges : Obligations.VariantBRanges := by
  refine ⟨fun i l d => variantB_operands_range, fun l d hd => ⟨fun hl hl' => ?_, fun hl hl' => ?_, fun hl hl' => ?_⟩⟩
  · have row := refbS_row (l := l) (d := d) (by simp [Stmt.inRange, *])
    exact ⟨_, _, row.wellFormed, row.operands⟩
  · exact ⟨_, _, (refbM_row (by simp [Stmt.inRange, *])).operands⟩
  · exact ⟨_, _, (refbL_row (by simp [Stmt.inRange, *])).operands⟩

end Sys2Proof.Proofs
end

section
namespace Sys2Proof.Proofs
open Sys2Proof Sys2Proof.Machine

/-! ## One step of phase COPY (R183) -/

theorem blockStep_copy {s : State} (hp : s.phase = .copy) : blockStep s = copyStep s := by
  rw [blockStep, hp]

/-- The state a copy step leaves: the byte `dist` back appended, and one byte fewer to copy. -/
def afterCopyStep (s : State) : State := countDown (putByte (outByte s (s.outCur.toNat - s.dist.toNat)) s)

theorem blockStep_of_copy {s : State} (hp : s.phase = .copy) (h1 : 1 ≤ s.dist.toNat)
    (hd : s.dist.toNat ≤ s.outCur.toNat) (hcap : s.outCur.toNat < s.params.outCap.toNat) :
    blockStep s = .next (afterCopyStep s) :=
  (blockStep_copy hp).trans (copyStep_ok hd h1 hcap)

theorem outByte_afterCopyStep_same (s : State) :
    outByte (afterCopyStep s) s.outCur.toNat = outByte s (s.outCur.toNat - s.dist.toNat) :=
  outByte_putByte_same _ s

theorem outByte_afterCopyStep_ne (s : State) {a : Nat} (h : a ≠ s.outCur.toNat) :
    outByte (afterCopyStep s) a = outByte s a :=
  outByte_putByte_ne _ s h

/-- Settles O22: both addresses of the step exist, and the byte is appended at the cursor. -/
theorem copyStepCopiesOneByte : Obligations.CopyStepCopiesOneByte := fun s hp h1 hd hcap =>
  ⟨afterCopyStep s, blockStep_of_copy hp h1 hd hcap, rfl, outByte_afterCopyStep_same s,
    fun _ => outByte_afterCopyStep_ne s⟩

/-! ## A run of copy steps (R184) -/

/-- From `s` to `t` the output has grown by `n` bytes, which repeat the last `dist` bytes of `s` with period `dist`. -/
structure RepeatsOutput (n : Nat) (s t : State) : Prop where
  outCur : t.outCur.toNat = s.outCur.toNat + n
  copied : ∀ k, k < n →
    outByte t (s.outCur.toNat + k) = outByte s (s.outCur.toNat - s.dist.toNat + k % s.dist.toNat)
  frame : ∀ a, a < s.outCur.toNat ∨ s.outCur.toNat + n ≤ a → outByte t a = outByte s a

theorem RepeatsOutput.refl (s : State) : RepeatsOutput 0 s s :=
  ⟨rfl, fun _ hk => absurd hk (Nat.not_lt_zero _), fun _ _ => rfl⟩

section
variable {s : State} (h1 : 1 ≤ s.dist.toNat) (hd : s.dist.toNat ≤ s.outCur.toNat)
include h1 hd

/-- The last `dist` bytes after a step are those before it, moved round by one: the byte that left the window at its
start has been appended at its end. -/
theorem outByte_afterCopyStep_window (k : Nat) :
    outByte (afterCopyStep s) (s.outCur.toNat + 1 - s.dist.toNat + k % s.dist.toNat) =
      outByte s (s.outCur.toNat - s.dist.toNat + (k + 1) % s.dist.toNat) := by
  have hlt := Nat.mod_lt k h1
  by_cases hlast : k % s.dist.toNat + 1 = s.dist.toNat
  · have hwrap : (k + 1) % s.dist.toNat = 0 := by rw [← Nat.mod_add_mod, hlast, Nat.mod_self]
    have hend : s.outCur.toNat + 1 - s.dist.toNat + k % s.dist.toNat = s.outCur.toNat := by omega
    rw [hwrap, hend, outByte_afterCopyStep_same, Nat.add_zero]
  · have hnext : (k + 1) % s.dist.toNat = k % s.dist.toNat + 1 := by
      rw [← Nat.mod_add_mod, Nat.mod_eq_of_lt (by omega)]
    rw [hnext, outByte_afterCopyStep_ne s (by omega)]
    congr 1
    omega

/-- A copy step before a run of `n` makes a run of `n + 1`. -/
theorem RepeatsOutput.of_afterCopyStep {n : Nat} {t : State}
    (hnext : (afterCopyStep s).outCur.toNat = s.outCur.toNat + 1) (h : RepeatsOutput n (afterCopyStep s) t) :
    RepeatsOutput (n + 1) s t := by
  obtain ⟨hcur, hcopied, hframe⟩ := h
  have hdist : (afterCopyStep s).dist = s.dist := rfl
  rw [hnext] at hcur hcopied hframe
  rw [hdist] at hcopied
  refine ⟨by omega, fun k hk => ?_, fun a ha => ?_⟩
  · cases k with
    | zero => rw [Nat.add_zero, hframe _ (.inl (by omega)), outByte_afterCopyStep_same, Nat.zero_mod, Nat.add_zero]
    | succ k =>
      rw [← outByte_afterCopyStep_window h1 hd k, ← hcopied k (by omega)]
      congr 1
      omega
  · rw [hframe a (by omega), outByte_afterCopyStep_ne s (by omega)]

end

/-- What the invariant says of the copy's registers (R180 to R183). -/
theorem copy_bounds {s : State} (hs : s.Inv) (hp : s.phase = .copy) :
    (1 ≤ s.count.toNat ∧ s.outCur.toNat + s.count.toNat ≤ s.declLen.toNat) ∧
      1 ≤ s.dist.toNat ∧ s.dist.toNat ≤ s.outCur.toNat ∧ s.dist.toNat ≤ 4096 := by
  obtain ⟨-, hcopy, -⟩ := (inv_iff_of_copy hp).mp hs
  exact hcopy hp

/-- In COPY the addresses of the step exist, and the cursor does not wrap. -/
theorem step_of_copy {s : State} (hs : s.Inv) (hag : s.agenda = []) (hp : s.phase = .copy) :
    step s = .next (afterCopyStep s) ∧ (afterCopyStep s).outCur.toNat = s.outCur.toNat + 1 := by
  have hlive : Live s := ((inv_iff_of_copy hp).mp hs).1
  obtain ⟨⟨hcount, hfit⟩, h1, hd, -⟩ := copy_bounds hs hp
  have hlt : s.outCur.toNat < s.declLen.toNat := by omega
  rw [step_of_agenda_nil hag]
  exact ⟨blockStep_of_copy hp h1 hd (hlt.trans_le hlive.declLen_le),
    putByte_outCur_toNat (b := outByte s (s.outCur.toNat - s.dist.toNat)) hlt⟩

/-- The run of a copy with `n` bytes left, by the steps it takes; with none left TOP is next already. -/
theorem run_copy {n : Nat} {s : State} (hs : s.Inv) (hag : s.agenda = [])
    (hp : s.phase = if s.count = 0 then .top else .copy) (hn : s.count.toNat = n) :
    ∃ t, run n s = .next t ∧ t.phase = .top ∧ RepeatsOutput n s t := by
  induction n generalizing s with
  | zero =>
    rw [if_pos (BitVec.eq_of_toNat_eq hn)] at hp
    exact ⟨s, run_zero s, hp, .refl s⟩
  | succ n ih =>
    have hne : s.count ≠ 0 := fun h0 => by simp [h0] at hn
    rw [if_neg hne] at hp
    obtain ⟨hstep, hcur⟩ := step_of_copy hs hag hp
    have hrest : (s.count - 1).toNat = n := by bv_omega
    obtain ⟨t, hrun, htop, hrep⟩ := ih (stepKeepsInvariant s _ hs hstep) hag rfl hrest
    obtain ⟨-, h1, hd, -⟩ := copy_bounds hs hp
    exact ⟨t, (run_succ_of_next hstep n).trans hrun, htop, hrep.of_afterCopyStep h1 hd hcur⟩

/-- Settles O56: the run of the whole count, by induction on the bytes left to copy. -/
theorem copyRepeatsWithPeriodDist : Obligations.CopyRepeatsWithPeriodDist := by
  intro s hs hag hp
  obtain ⟨⟨hcount, -⟩, -⟩ := copy_bounds hs hp
  have hne : s.count ≠ 0 := fun h0 => by simp [h0] at hcount
  obtain ⟨t, hrun, htop, hrep⟩ := run_copy hs hag (hp.trans (if_neg hne).symm) rfl
  exact ⟨t, hrun, htop, hrep.outCur, hrep.copied, hrep.frame⟩

/-! ## The distance check (R180) -/

/-- Variant A's distance is one more than what it stores. -/
theorem dist_ne_zero_of_variantA {i : Instr} {l d : Nat} (ha : i.appliesIn (.token .A true) = true)
    (hi : refOperands i = some (l, d)) : d ≠ 0 := by
  cases i <;> cases ha <;> cases hi
  all_goals exact Nat.one_le_iff_ne_zero.mp (distA_range _).1

theorem runRef_of_badDistance {l d : Nat} {s : State} (h : d = 0 ∨ s.outCur.toNat < d) :
    runRef l d s = .next (raiseFault .badDistance (deliver l d s)) := if_pos h

/-- Settles O30: with all its bytes left the row runs the distance check on its operands. -/
theorem badDistanceIsFatal : Obligations.BadDistanceIsFatal := by
  intro s i l d hi
  refine ⟨fun ha => dist_ne_zero_of_variantA ha hi, fun hleft => ⟨fun hbad => ?_, fun h0 hd => ?_⟩⟩
  · rw [exec_ref_of_bytesLeft hi hleft]
    exact runRef_of_badDistance (s := advanceIn i.byteCount s) hbad
  · exact ⟨_, referenceRowsComplete s i l d hi hleft (Nat.one_le_iff_ne_zero.mpr h0) hd, rfl⟩

end Sys2Proof.Proofs
end

section
namespace Sys2Proof.Proofs
open Sys2Proof Sys2Proof.Machine

/-! ## The POST step and variant B's trailer (R201 to R206) -/

/-- Settles O23: in each of the four cases the skip is the one `postStep_eq` takes. -/
theorem postStepCompletes : Obligations.PostStepCompletes := by
  intro s skip hp hmax hA hsentinel hother hnone
  have hskip : skip = BitVec.ofNat 32 (postSkip s) := by
    unfold postSkip
    cases hv : s.variant with
    | A => exact hA hv
    | B =>
      by_cases hin : s.inCur.toNat < s.inLen.toNat
      · simp only [streamByte_at_inCur hin]
        by_cases hb : inByte s s.inCur.toNat = 0x80
        · rw [if_pos hb]; exact hsentinel hv hin hb
        · rw [if_neg hb]; exact hother hv hin hb
      · rw [Nat.not_lt] at hin
        rw [streamByte_of_ge hin]
        exact hnone hv hin
  rw [blockStep_post hp, postStep_eq hmax, hskip]
  rfl

/-- A padding row skips its bytes, whatever they are, and completes. -/
theorem exec_padding {i : Instr} (h : i.appliesIn .trailer = true) (s : State) :
    exec i s = skipPadding i.byteCount s := by
  cases i <;> cases h <;> rfl

/-- Settles O29: the skip of a stream inside `IN_MEM` is made. -/
theorem paddingRowsComplete : Obligations.PaddingRowsComplete := by
  rintro s i n hmax (⟨y, x, rfl, rfl⟩ | ⟨x1, x2, rfl, rfl⟩)
  · exact skipPadding_ok 2 hmax
  · exact skipPadding_ok 3 hmax

/-- Settles O36: a padding row leaves what the cursor's advance and completion leave. -/
theorem paddingRowsFrame : Obligations.PaddingRowsFrame := by
  intro s t i hi h
  obtain rfl := skipPadding_next ((exec_padding hi s).symm.trans h)
  exact ⟨⟨rfl, rfl, rfl, rfl, rfl, rfl, rfl, rfl, rfl, rfl, rfl, rfl, rfl⟩, ⟨rfl, rfl, rfl, rfl⟩,
    inByte_congr rfl rfl, outByte_congr rfl rfl⟩

/-! ## How the loop ends (R200) -/

/-- From `s` to `t` the loop ends, at its test or where the input ends inside a token, and writes no output. -/
structure EndsLoop (s t : State) : Prop where
  phase : t.phase = .post
  ended : s.declLen.toNat ≤ s.outCur.toNat ∨ s.inLen.toNat < t.inCur.toNat + 2
  outMem : t.outMem = s.outMem
  outCur : t.outCur = s.outCur
  status : t.status = s.status

/-- The phases that a step leaves where the decode is still in its loop, or failed. -/
def InLoopOrError (p : Phase) : Prop := p = .top ∨ p = .copy ∨ p = .error

theorem InLoopOrError.ne {p : Phase} (h : InLoopOrError p) : p ≠ .post ∧ p ≠ .done := by
  rcases h with rfl | rfl | rfl <;> decide

theorem runRef_phase {l d : Nat} {s t : State} (h : runRef l d s = .next t) : InLoopOrError t.phase := by
  rcases runRef_cases l d s with ⟨-, he⟩ | ⟨-, -, -, he⟩ | ⟨-, -, -, he⟩ <;>
    obtain rfl := Host.Outcome.next.inj (he.symm.trans h)
  · exact .inr (.inr rfl)
  · exact .inr (.inl rfl)
  · exact .inr (.inl rfl)

/-- A token that is cut short leaves at most one byte unread, and only of a first word. -/
theorem tokenStep_endsLoop_or {s t : State} (h : tokenStep s = .next t) : EndsLoop s t ∨ InLoopOrError t.phase := by
  rcases tokenStep_cases s with ⟨b, he⟩ | ⟨i, l, d, hi, -, -, -, -, he⟩ <;> rw [he] at h
  · rcases exec_lit_next h with ⟨hshort, rfl⟩ | ⟨-, -, rfl⟩
    · exact .inl ⟨rfl, .inr (Nat.lt_succ_of_lt hshort), rfl, rfl, rfl⟩
    · exact .inr (.inl rfl)
  · rcases exec_ref_next hi h with ⟨k, n, hk, -, rfl⟩ | ⟨-, hr⟩
    · refine .inl ⟨rfl, .inr ?_, rfl, rfl, rfl⟩
      rcases hk with ⟨rfl, hshort⟩ | ⟨-, -, hend⟩
      · simpa using hshort
      · have hcur : (advanceIn k (shiftMask s)).inCur.toNat = s.inCur.toNat + k := advanceIn_inCur_toNat hend.le
        have hend : s.inCur.toNat + k = s.inLen.toNat := hend
        show s.inLen.toNat < (advanceIn k (shiftMask s)).inCur.toNat + 2
        omega
    · exact .inr (runRef_phase hr)

/-- Every iteration ends the loop, or TOP, COPY or ERROR follows. -/
theorem topStep_endsLoop_or {s t : State} (h : topStep s = .next t) : EndsLoop s t ∨ InLoopOrError t.phase := by
  rcases topStep_next h with ⟨hloop, rfl⟩ | ⟨-, -, ⟨-, ht⟩ | ⟨-, f, ht⟩⟩
  · exact .inl ⟨rfl, hloop.imp_right fun hin => show s.inLen.toNat < s.inCur.toNat + 2 by omega, rfl, rfl, rfl⟩
  · exact tokenStep_endsLoop_or ht
  · exact (tokenStep_endsLoop_or ht).imp_left fun e => { e with }

theorem hdrStep_phase {s t : State} (h : hdrStep s = .next t) : InLoopOrError t.phase := by
  rcases hdrStep_cases s with ⟨-, he⟩ | ⟨-, he⟩ | ⟨v, n, -, -, he⟩ | ⟨v, n, -, -, he⟩ <;>
    obtain rfl := Host.Outcome.next.inj (he.symm.trans h)
  · exact .inr (.inr rfl)
  · exact .inr (.inr rfl)
  · exact .inr (.inr rfl)
  · exact .inl rfl

theorem copyStep_phase {s t : State} (h : copyStep s = .next t) : InLoopOrError t.phase := by
  obtain ⟨-, -, rfl⟩ := copyStep_next h
  rcases countDown_phase_cases (putByte (outByte s (s.outCur.toNat - s.dist.toNat)) s) with ⟨-, hp⟩ | ⟨-, hp⟩
  · exact .inl hp
  · exact .inr (.inl hp)

/-- Everything the block's step can do about POST and DONE: it rests, ends the loop, completes in POST, or is in neither
after it. -/
theorem blockStep_phase_cases {s t : State} (h : blockStep s = .next t) :
    (s.phase.busy = false ∧ t = s) ∨ (s.phase = .top ∧ EndsLoop s t) ∨
      (s.phase = .post ∧ ∃ n, t = finish (advanceIn n s)) ∨ InLoopOrError t.phase := by
  cases hp : s.phase <;> simp only [blockStep, hp] at h
  case hdr => exact .inr (.inr (.inr (hdrStep_phase h)))
  case top =>
    rcases topStep_endsLoop_or h with he | hph
    · exact .inr (.inl ⟨rfl, he⟩)
    · exact .inr (.inr (.inr hph))
  case copy => exact .inr (.inr (.inr (copyStep_phase h)))
  case post =>
    obtain ⟨n, -, ht⟩ := postStep_next h
    exact .inr (.inr (.inl ⟨rfl, n, ht⟩))
  all_goals exact .inl ⟨rfl, (Host.Outcome.next.inj h).symm⟩

/-- Settles O24: of the steps of the block only the end of the loop leads to POST. -/
theorem postIsEnteredFromTop : Obligations.PostIsEnteredFromTop := by
  intro s t h hpost
  rcases blockStep_phase_cases h with ⟨hrest, rfl⟩ | ⟨htop, e⟩ | ⟨-, n, rfl⟩ | hph
  · rw [hpost] at hrest; cases hrest
  · exact ⟨htop, e.ended, e.outMem, e.outCur, e.status⟩
  · cases hpost
  · exact absurd hpost hph.ne.1

/-! ## The warnings of a decode that has ended (R203, R204, R207, R227) -/

theorem warningList_eq_nil_iff (t : Status) :
    warningList t = [] ↔ t.warnOverrun = false ∧ t.warnTrunc = false ∧ t.warnTrailing = false := by
  simp [warningList]

/-- Settles O55: a truncated output is not complete, which the other two warnings say it is. -/
theorem warningSetsAreFive : Obligations.WarningSetsAreFive := by
  intro s hs
  obtain ⟨-, -, -, -, -, -, ⟨-, -, -, hdone, herror⟩, -⟩ := hs
  refine ⟨fun hp => ?_, fun hp => (warningList_eq_nil_iff _).mpr (herror hp)⟩
  obtain ⟨htrunc, hoverrun, htrailing⟩ := hdone hp
  cases ht : s.status.warnTrunc with
  | true =>
    have hne : s.outLen ≠ s.declLen := fun heq => absurd (htrunc.mp ht) (by rw [heq]; exact lt_irrefl _)
    have ho : s.status.warnOverrun = false := Bool.eq_false_iff.mpr (mt hoverrun hne)
    have hr : s.status.warnTrailing = false := Bool.eq_false_iff.mpr (mt htrailing hne)
    simp [warningList, ht, ho, hr]
  | false => cases ho : s.status.warnOverrun <;> cases hr : s.status.warnTrailing <;> simp [warningList, ht, ho, hr]

/-- Completion shows no warning exactly when there was no overrun, the output is complete and the input cursor is at the
end of the input. -/
theorem warningList_finish_eq_nil_iff {s : State} (hs : Live s) (n : Nat) :
    warningList (finish (advanceIn n s)).status = [] ↔
      s.status.warnOverrun = false ∧ s.outCur = s.declLen ∧ (advanceIn n s).inCur = s.inLen := by
  have htrunc : truncated (advanceIn n s) = false ↔ s.outCur = s.declLen := by
    rw [truncated, decide_eq_false_iff_not, Nat.not_lt]
    exact ⟨fun h => BitVec.eq_of_toNat_eq (le_antisymm hs.outCur_le h), fun h => by simp [h]⟩
  have htrailing (h : s.outCur = s.declLen) :
      trailing (advanceIn n s) = false ↔ (advanceIn n s).inCur = s.inLen := by
    rw [trailing, advanceIn_outCur, advanceIn_declLen, decide_eq_true h, Bool.true_and, decide_eq_false_iff_not,
      not_not, advanceIn_inLen]
  simp only [warningList_eq_nil_iff, finish_status, completionWarnings, advanceIn_status, hs.warnTrunc,
    hs.warnTrailing, Bool.false_or, htrunc]
  exact and_congr_right fun _ => and_congr_right htrailing

/-! ## Well-formed streams (R209) -/

/-- In a run of the block alone no host turn comes up. -/
theorem run_agenda_nil {n : Nat} {s t : State} (hs : s.agenda = []) (h : run n s = .next t) : t.agenda = [] :=
  run_invariant (P := fun u => u.agenda = [])
    (fun _ _ hu hv => (keepsInputs_of_blockStep (step_of_agenda_nil hu ▸ hv)).agenda.trans hu) hs h

/-- A run that is not in DONE at its start reaches it by a POST step. -/
theorem run_done_from_post {n : Nat} {s t : State} (hag : s.agenda = []) (hs : s.phase ≠ .done)
    (h : run n s = .next t) (ht : t.phase = .done) :
    ∃ m p, run m s = .next p ∧ p.phase = .post ∧ step p = .next t := by
  induction n generalizing t with
  | zero =>
    obtain rfl : s = t := by injection h
    exact absurd ht hs
  | succ n ih =>
    obtain ⟨u, hu, hstep⟩ := run_succ_last h
    rcases blockStep_phase_cases (step_of_agenda_nil (run_agenda_nil hag hu) ▸ hstep) with
      ⟨-, rfl⟩ | ⟨-, e⟩ | ⟨hp, -⟩ | hph
    · exact ih hu ht
    · exact absurd (e.phase.symm.trans ht) (by decide)
    · exact ⟨n, u, hu, hp, hstep⟩
    · exact absurd ht hph.ne.2

/-- The POST step ends in DONE with the output so far, and shows no warning exactly under conditions (c) to (e). -/
theorem step_of_post {p t : State} (hp : p.phase = .post) (hs : p.Inv) (hag : p.agenda = []) (h : step p = .next t) :
    t.phase = .done ∧ (t.outLen = t.declLen ↔ p.outCur = p.declLen) ∧
      (warningList t.status = [] ↔
        p.status.warnOverrun = false ∧ p.outCur = p.declLen ∧ t.inCur = t.inLen) := by
  have hlive := ((inv_iff_of_top_or_post (.inr hp)).mp hs).1
  rw [step_of_agenda_nil hag, blockStep_post hp] at h
  obtain ⟨n, -, rfl⟩ := postStep_next h
  exact ⟨rfl, .rfl, warningList_finish_eq_nil_iff hlive n⟩

section Stream
variable {s : State} (hs : s.Inv) (hag : s.agenda = [])
include hs hag

theorem decodes_of_wellFormedStream (h : WellFormedStream s) :
    ∃ n t, run n s = .next t ∧ t.phase = .done ∧ t.outLen = t.declLen ∧ warningList t.status = [] := by
  obtain ⟨n, p, t, hrun, hp, hov, hfull, hstep, hend⟩ := h
  obtain ⟨hdone, hlen, hwarn⟩ :=
    step_of_post hp (run_invariant stepKeepsInvariant hs hrun) (run_agenda_nil hag hrun) hstep
  have hrun' : run (n + 1) s = .next t := by rw [run_add hrun 1, run_succ_of_next hstep, run_zero]
  exact ⟨n + 1, t, hrun', hdone, hlen.mpr hfull, hwarn.mpr ⟨hov, hfull, hend⟩⟩

theorem wellFormedStream_of_no_warning {n : Nat} {t : State} (hp : s.phase ≠ .done) (h : run n s = .next t)
    (ht : t.phase = .done) (hw : warningList t.status = []) : WellFormedStream s := by
  obtain ⟨m, p, hrun, hpost, hstep⟩ := run_done_from_post hag hp h ht
  obtain ⟨-, -, hwarn⟩ :=
    step_of_post hpost (run_invariant stepKeepsInvariant hs hrun) (run_agenda_nil hag hrun) hstep
  obtain ⟨hov, hfull, hend⟩ := hwarn.mp hw
  exact ⟨m, p, t, hrun, hpost, hov, hfull, hstep, hend⟩

end Stream

theorem finished_iff (p : Phase) : p.finished = true ↔ p = .done ∨ p = .error := by
  cases p <;> decide

/-- Settles O60: DONE is reached by a POST step, which shows no warning exactly on a well-formed stream. -/
theorem wellFormedStreamsDecodeExactly : Obligations.WellFormedStreamsDecodeExactly := by
  intro s hs hag hp
  have hnd : s.phase ≠ .done := by rw [hp]; decide
  refine ⟨⟨decodes_of_wellFormedStream hs hag, ?_⟩, fun n t hrun hfin hnot => ?_⟩
  · rintro ⟨n, t, hrun, ht, -, hw⟩
    exact wellFormedStream_of_no_warning hs hag hnd hrun ht hw
  · rcases (finished_iff _).mp hfin with ht | ht
    · exact .inr fun hw => hnot (wellFormedStream_of_no_warning hs hag hnd hrun ht hw)
    · exact .inl ht

end Sys2Proof.Proofs
end

section
namespace Sys2Proof.Proofs
open Sys2Proof Sys2Proof.Machine

/-! ## The resting phases (R228, R236) -/

theorem blockStep_of_not_busy {s : State} (hb : s.phase.busy = false) : blockStep s = .next s := by
  cases hp : s.phase <;> rw [hp] at hb
  case idle | done | error => rw [blockStep, hp]
  all_goals cases hb

/-- A register write that is no START, accepted or not, leaves the phase (R24, R26, R31). -/
theorem regWrite_phase {offset : Nat} {v : Word} (h : ¬(offset = 0 ∧ v.getLsbD 0 = true)) (s : State) :
    (regWrite s offset v).phase = s.phase := by
  by_cases h0 : offset = 0x00
  · subst h0
    rw [regWrite_ctrl, if_neg fun hv => h ⟨rfl, hv⟩]
  by_cases h8 : offset = 0x08
  · subst h8
    rw [regWrite_inLen]
    split <;> rfl
  rw [regWrite_readOnly h0 h8]

/-- Of the host's moves only a START or a reset can change the phase (R262). -/
theorem hostMove_phase {m : HostMove} {s t : State} (hm : (Turn.host m).startsOrResets ≠ true)
    (h : hostMove m s = .next t) : t.phase = s.phase := by
  have read (hr : m.reads = true) : t.phase = s.phase := by
    rw [(hostReadsChangeNothing s t m hr h).1]
  cases m with
  | readIn a => exact read rfl
  | readOut a => exact read rfl
  | readReg offset w => exact read rfl
  | writeIn a b =>
    obtain ⟨-, h⟩ := whenNotBusy_next h
    obtain ⟨-, h⟩ := inAccess_next h
    obtain rfl := Host.Outcome.next.inj h
    rfl
  | writeOut a b =>
    obtain ⟨-, h⟩ := whenNotBusy_next h
    obtain ⟨-, h⟩ := outAccess_next h
    obtain rfl := Host.Outcome.next.inj h
    rfl
  | writeReg offset w v =>
    obtain ⟨rfl, -, -, h⟩ := regAccess_next h
    obtain rfl := Host.Outcome.next.inj h
    exact regWrite_phase (by simpa [Turn.startsOrResets] using hm) s
  | reset => exact absurd rfl hm

/-- Settles O49: at rest the block's turn keeps the state, and the host's other moves keep the phase. -/
theorem onlyStartOrResetLeavesRest : Obligations.OnlyStartOrResetLeavesRest := by
  intro s hb
  refine ⟨blockStep_of_not_busy hb, fun t h hne => ?_⟩
  match ha : s.agenda with
  | [] =>
    rw [step_of_agenda_nil ha, blockStep_of_not_busy hb] at h
    obtain rfl := Host.Outcome.next.inj h
    exact absurd rfl hne
  | .block :: r =>
    rw [step_of_block_turn ha, blockStep_of_not_busy (s := turnTaken s) hb] at h
    obtain rfl := Host.Outcome.next.inj h
    exact absurd rfl hne
  | .host m :: r =>
    rw [step_of_host_turn ha] at h
    exact ⟨m, r, rfl, by_contra fun hm => hne (hostMove_phase (s := turnTaken s) hm h)⟩

/-! ## A running decode (R229, R254) -/

/-- While BUSY the register window takes no write (R26, R101). -/
theorem regWrite_of_busy {s : State} (hb : s.phase.busy = true) (offset : Nat) (v : Word) :
    regWrite s offset v = s := by
  rcases regWrite_cases s offset v with ⟨hn, -⟩ | ⟨hn, -⟩ | he
  · exact absurd hb (Bool.eq_false_iff.mp hn)
  · exact absurd hb (Bool.eq_false_iff.mp hn)
  · exact he

/-- Settles O50: reads leave the block, memory writes are refused while BUSY, and register writes do nothing. -/
theorem onlyResetDisturbsADecode : Obligations.OnlyResetDisturbsADecode := by
  intro s t m hb hm h
  have read (hr : m.reads = true) := (hostReadsChangeNothing s t m hr h).1
  cases m with
  | readIn a => exact read rfl
  | readOut a => exact read rfl
  | readReg offset w => exact read rfl
  | writeIn a b => exact absurd hb (Bool.eq_false_iff.mp (whenNotBusy_next h).1)
  | writeOut a b => exact absurd hb (Bool.eq_false_iff.mp (whenNotBusy_next h).1)
  | writeReg offset w v =>
    obtain ⟨-, -, -, h⟩ := regAccess_next h
    obtain rfl := Host.Outcome.next.inj h
    rw [regWrite_of_busy hb]
  | reset => exact absurd rfl hm

end Sys2Proof.Proofs
end

section
namespace Sys2Proof.Proofs
open Sys2Proof Sys2Proof.Machine

/-! ## The host's memory moves (R53, R254, R262) -/

theorem inAccess_ok {s : State} {a : Nat} (ha : a < s.params.maxInLen) (go : Out) : inAccess s a go = go :=
  if_pos ((inExists_iff _ _).mpr ha)

theorem outAccess_ok {s : State} {a : Nat} (ha : a < s.params.outCap.toNat) (go : Out) : outAccess s a go = go :=
  if_pos ((outExists_iff _ _).mpr ha)

theorem whenNotBusy_ok {s : State} (hb : s.phase.busy = false) (go : Out) : whenNotBusy s go = go := by
  rw [whenNotBusy, hb]
  rfl

theorem hostReadOut_of_not_busy {s : State} (hb : s.phase.busy = false) (a : Nat) :
    hostReadOut s a = { s with hostData := (outByte s a).setWidth 32 } := by
  rw [hostReadOut, hb]
  rfl

/-- The host's byte reads back, and no other byte of `IN_MEM` has changed. -/
theorem inByte_writeIn (s : State) (a : Nat) (b : Byte) :
    inByte { s with inMem := s.inMem.write a b } a = b ∧
      ∀ c, c ≠ a → inByte { s with inMem := s.inMem.write a b } c = inByte s c :=
  ⟨by simp [inByte, lookup_write_same], fun c hc => by simp [inByte, lookup_write_ne _ b hc]⟩

/-- The host's byte reads back, and no other byte of `OUT_MEM` has changed. -/
theorem outByte_writeOut (s : State) (a : Nat) (b : Byte) :
    outByte { s with outMem := s.outMem.write a b } a = b ∧
      ∀ c, c ≠ a → outByte { s with outMem := s.outMem.write a b } c = outByte s c :=
  ⟨by simp [outByte, lookup_write_same], fun c hc => by simp [outByte, lookup_write_ne _ b hc]⟩

/-- Settles O41: at an address that exists the guards pass, and the memory's laws say the rest. -/
theorem hostMemoryMoves : Obligations.HostMemoryMoves := by
  refine fun s a b => ⟨fun ha => ⟨inAccess_ok ha _, fun hb => ?_⟩,
    fun ha => ⟨⟨_, outAccess_ok ha _⟩, fun hb => ⟨?_, ?_⟩⟩⟩
  · exact ⟨_, (whenNotBusy_ok hb _).trans (inAccess_ok ha _), rfl, inByte_writeIn s a b⟩
  · rw [← hostReadOut_of_not_busy hb]
    exact outAccess_ok ha _
  · exact ⟨_, (whenNotBusy_ok hb _).trans (outAccess_ok ha _), rfl, outByte_writeOut s a b⟩

/-! ## Reset (R250) -/

/-- Settles O43: reset gives the registers the values of `State.reset`, and in IDLE the block waits. -/
theorem resetReturnsToIdle : Obligations.ResetReturnsToIdle := fun s =>
  have hstatus : statusWord .idle Status.clear = 0 := by decide
  have hidle : blockStep (assertReset s) = .next (assertReset s) := blockStep_of_not_busy rfl
  ⟨assertReset s, rfl, rfl, hstatus, rfl, rfl, rfl, rfl, rfl, rfl, hidle⟩

end Sys2Proof.Proofs
end

section
namespace Sys2Proof.Proofs
open Sys2Proof Sys2Proof.Machine

/-! ## How many steps a decode has left (R108, R257) -/

/-- The most steps that a decode still in its loop takes: every step consumes input or appends output, but for the end of
the loop and POST. -/
def loopSteps (s : State) : Nat := (s.inLen.toNat - s.inCur.toNat) + (s.declLen.toNat - s.outCur.toNat) + 2

/-- The most steps that a decode past its header has left. -/
def stepsLeft (s : State) : Nat :=
  match s.phase with
  | .top => loopSteps s
  | .copy => loopSteps s
  | .post => 1
  | .idle => 0
  | .hdr => 0
  | .done => 0
  | .error => 0

theorem stepsLeft_le_loopSteps (s : State) : stepsLeft s ≤ loopSteps s := by
  unfold stepsLeft loopSteps
  split <;> omega

theorem stepsLeft_top {s : State} (hp : s.phase = .top) : stepsLeft s = loopSteps s := by rw [stepsLeft, hp]

theorem stepsLeft_copy {s : State} (hp : s.phase = .copy) : stepsLeft s = loopSteps s := by rw [stepsLeft, hp]

theorem stepsLeft_post {s : State} (hp : s.phase = .post) : stepsLeft s = 1 := by rw [stepsLeft, hp]

/-- A step of TOP, COPY or POST is a step of the decode. -/
theorem decodeStep_of_step {s t : State} (hag : s.agenda = []) (hp : s.phase.decoding = true)
    (h : step s = .next t) : DecodeStep s t := by
  obtain ⟨hbusy, hnh⟩ := (decoding_iff _).mp hp
  rcases blockStep_cases (step_of_agenda_nil hag ▸ h) with ⟨hrest, -⟩ | ⟨hh, -⟩ | ⟨-, hd⟩
  · exact absurd (hbusy.symm.trans hrest) (by decide)
  · exact absurd hh hnh
  · exact hd

section Decoding
variable {s t : State} (hs : s.Inv) (hag : s.agenda = []) (h : step s = .next t)
include hs hag h

/-- An iteration ends the loop, or consumes input and gives back no output (R127). -/
theorem stepsLeft_lt_of_top (hp : s.phase = .top) : stepsLeft t < stepsLeft s := by
  have hlive : Live s := ((inv_iff_of_top_or_post (.inl hp)).mp hs).1
  have hd : DecodeStep s t := decodeStep_of_step hag (by rw [hp]; rfl) h
  obtain ⟨-, hin, hmove⟩ := iterationConsumesOrEnds s t hp hlive.inCur_le (step_of_agenda_nil hag ▸ h)
  rw [stepsLeft_top hp]
  rcases hmove with hpost | hlt
  · rw [stepsLeft_post hpost]
    unfold loopSteps
    omega
  · refine (stepsLeft_le_loopSteps t).trans_lt ?_
    have hout := hd.outByte_past.1
    unfold loopSteps
    rw [hd.inLen, hd.declLen]
    omega

/-- A copy step appends a byte for which there is room (R183). -/
theorem stepsLeft_lt_of_copy (hp : s.phase = .copy) : stepsLeft t < stepsLeft s := by
  obtain ⟨⟨hcount, hfit⟩, -⟩ := copy_bounds hs hp
  obtain ⟨hstep, hcur⟩ := step_of_copy hs hag hp
  obtain rfl := Host.Outcome.next.inj (hstep.symm.trans h)
  rw [stepsLeft_copy hp]
  refine (stepsLeft_le_loopSteps _).trans_lt ?_
  have hlen : (afterCopyStep s).inLen = s.inLen := rfl
  have hin : (afterCopyStep s).inCur = s.inCur := rfl
  have hdecl : (afterCopyStep s).declLen = s.declLen := rfl
  unfold loopSteps
  rw [hlen, hin, hdecl]
  omega

theorem stepsLeft_lt_of_post (hp : s.phase = .post) : stepsLeft t < stepsLeft s := by
  have hdone : t.phase = .done := (step_of_post hp hs hag h).1
  rw [stepsLeft_post hp, stepsLeft, hdone]
  exact one_pos

theorem stepsLeft_lt (hp : s.phase.decoding = true) : stepsLeft t < stepsLeft s := by
  cases hph : s.phase <;> rw [hph] at hp
  case top => exact stepsLeft_lt_of_top hs hag h hph
  case copy => exact stepsLeft_lt_of_copy hs hag h hph
  case post => exact stepsLeft_lt_of_post hs hag h hph
  all_goals cases hp

omit hs in
/-- A decode goes on to a phase of its own or ends. -/
theorem decoding_or_finished_of_step (hp : s.phase.decoding = true) :
    t.phase.decoding = true ∨ t.phase.finished = true := by
  obtain ⟨hbusy, -⟩ := (decoding_iff _).mp hp
  rcases blockStep_phase_cases (step_of_agenda_nil hag ▸ h) with ⟨hrest, -⟩ | ⟨-, e⟩ | ⟨-, n, rfl⟩ | hph
  · exact absurd (hbusy.symm.trans hrest) (by decide)
  · exact .inl (by rw [e.phase]; rfl)
  · exact .inr rfl
  · rcases hph with hph | hph | hph <;> rw [hph]
    · exact .inl rfl
    · exact .inl rfl
    · exact .inr rfl

end Decoding

theorem blocksTurn_of_agenda_nil {s : State} (hag : s.agenda = []) : blocksTurn s = true := by
  rw [blocksTurn, hag]

/-- A decode past its header ends in at most `stepsLeft` steps, by induction on them, with its declared length. -/
theorem run_reaches_end {k : Nat} {s : State} (hs : s.Inv) (hag : s.agenda = [])
    (hp : s.phase.decoding = true ∨ s.phase.finished = true) (hk : stepsLeft s = k) :
    ∃ n t, run n s = .next t ∧ t.phase.finished = true ∧ t.declLen = s.declLen ∧ n ≤ k := by
  induction k using Nat.strong_induction_on generalizing s with
  | _ k ih =>
    rcases hp with hp | hp
    · obtain ⟨u, hu⟩ := blockNeverFaults s hs (blocksTurn_of_agenda_nil hag)
      have hd : DecodeStep s u := decodeStep_of_step hag hp hu
      have hlt : stepsLeft u < k := hk ▸ stepsLeft_lt hs hag hu hp
      obtain ⟨n, t, hrun, hfin, hdecl, hn⟩ := ih _ hlt (stepKeepsInvariant s u hs hu) (hd.agenda.trans hag)
        (decoding_or_finished_of_step hag hu hp) rfl
      exact ⟨n + 1, t, (run_succ_of_next hu n).trans hrun, hfin, hdecl.trans hd.declLen, by omega⟩
    · exact ⟨0, s, run_zero s, hp, rfl, Nat.zero_le k⟩

/-- The header is rejected, or accepted with the cursors after it (R102 to R106, R108). -/
theorem hdrStep_rejects_or_accepts {s t : State} (h : hdrStep s = .next t) :
    t.phase = .error ∨ t.phase = .top ∧ t.inLen = s.inLen ∧ t.inCur = 4 ∧ t.outCur = 0 := by
  rcases hdrStep_cases s with ⟨-, he⟩ | ⟨-, he⟩ | ⟨v, n, -, -, he⟩ | ⟨v, n, -, -, he⟩ <;>
    obtain rfl := Host.Outcome.next.inj (he.symm.trans h)
  · exact .inl rfl
  · exact .inl rfl
  · exact .inl rfl
  · exact .inr ⟨rfl, rfl, rfl, rfl⟩

/-- Settles O57: the HDR step rejects the header, or leaves `IN_LEN - 4 + DECL_LEN + 2` steps at most. -/
theorem decodeEndsWithinBound : Obligations.DecodeEndsWithinBound := by
  intro s hs hag hp
  have header {t : State} (h : step s = .next t) :
      t.phase = .error ∨ t.phase = .top ∧ t.inLen = s.inLen ∧ t.inCur = 4 ∧ t.outCur = 0 :=
    hdrStep_rejects_or_accepts (by rwa [← blockStep_hdr hp, ← step_of_agenda_nil hag])
  refine ⟨?_, fun t hrun => ?_⟩
  · obtain ⟨u, hu⟩ := blockNeverFaults s hs (blocksTurn_of_agenda_nil hag)
    rcases header hu with herr | ⟨htop, hlen, hin, hout⟩
    · exact ⟨1, u, (run_succ_of_next hu 0).trans (run_zero u), by rw [herr]; rfl, fun h4 => by omega⟩
    · obtain ⟨n, t, hrun, hfin, hdecl, hn⟩ := run_reaches_end (stepKeepsInvariant s u hs hu)
        (run_agenda_nil (n := 1) hag (run_succ_of_next hu 0)) (.inl (by rw [htop]; rfl)) rfl
      refine ⟨n + 1, t, (run_succ_of_next hu n).trans hrun, hfin, fun h4 => ?_⟩
      have hin : u.inCur.toNat = 4 := by rw [hin]; rfl
      rw [stepsLeft_top htop, loopSteps, hlen, hin, hout, ← hdecl] at hn
      simp only [BitVec.ofNat_eq_ofNat, BitVec.toNat_ofNat, Nat.zero_mod, Nat.sub_zero] at hn
      omega
  · obtain ⟨u, hu, hrest⟩ := run_succ_inv (n := 0) hrun
    obtain rfl := Host.Outcome.next.inj ((run_zero u).symm.trans hrest)
    exact (header hu).symm.imp_left And.left

end Sys2Proof.Proofs
end

section
namespace Sys2Proof.Proofs
open Sys2Proof Sys2Proof.Machine

/-! ## Two blocks with the same stream (R43, R260, R261) -/

/-- Two states in the same phase that present the same stream and show the same registers to the host. -/
structure SameView (s s' : State) : Prop where
  stream : sameStream s s'
  phase : s.phase = s'.phase
  status : s.status = s'.status
  declLen : s.declLen = s'.declLen
  outLen : s.outLen = s'.outLen
  inConsumed : s.inConsumed = s'.inConsumed

/-- Two decodes at the same point past the header: they agree in all that a step can come to read. Left out are `length`,
`flags` until they are fetched, the copy registers outside COPY, and the output not yet written (R36, R38, R39, R43). -/
structure SameDecoder (s s' : State) : Prop extends SameView s s' where
  variant : s.variant = s'.variant
  inCur : s.inCur = s'.inCur
  outCur : s.outCur = s'.outCur
  mask : s.mask = s'.mask
  flags : s.mask ≠ 0 → s.flags = s'.flags
  copying : s.phase = .copy → s.dist = s'.dist ∧ s.count = s'.count
  output : ∀ a, a < s.outCur.toNat ∨ a < s.outLen.toNat → outByte s a = outByte s' a

/-- Two runs at the same point, the header and the ended decode among them. -/
structure SamePoint (s s' : State) : Prop extends SameView s s' where
  result : ∀ a, a < s.outLen.toNat → outByte s a = outByte s' a
  decoder : s.phase.decoding = true → SameDecoder s s'

theorem SameDecoder.samePoint {s s' : State} (h : SameDecoder s s') : SamePoint s s' :=
  { h with result := fun a ha => h.output a (.inr ha), decoder := fun _ => h }

/-- Where both outcomes are next states, these are related. -/
def NextRelated (R : State → State → Prop) (o o' : Out) : Prop :=
  ∀ t t', o = .next t → o' = .next t' → R t t'

theorem nextRelated_next {R : State → State → Prop} {t t' : State} (h : R t t') :
    NextRelated R (.next t) (.next t') := by
  rintro _ _ ⟨⟩ ⟨⟩
  exact h

theorem NextRelated.mono {R Q : State → State → Prop} {o o' : Out} (h : NextRelated R o o')
    (hRQ : ∀ t t', R t t' → Q t t') : NextRelated Q o o' :=
  fun t t' ht ht' => hRQ t t' (h t t' ht ht')

/-- A fetch sees the same bytes of the same stream. -/
theorem streamByte_congr {s s' : State} (h : sameStream s s') (a k : Nat) : streamByte s a k = streamByte s' a k := by
  obtain ⟨-, hlen, hbytes⟩ := h
  unfold streamByte
  rw [← hlen]
  split
  · exact hbytes _ ‹_›
  · rfl

/-! ## The updates keep two decodes at the same point -/

section Updates
variable {s s' : State} (h : SameDecoder s s')
include h

theorem sameDecoder_gotoPost : SameDecoder (gotoPost s) (gotoPost s') :=
  { h with phase := rfl, copying := nofun }

theorem sameDecoder_advanceIn (n : Nat) : SameDecoder (advanceIn n s) (advanceIn n s') :=
  { h with inCur := by rw [advanceIn_inCur, advanceIn_inCur, h.inCur] }

theorem sameDecoder_shiftMask (hm : s.mask ≠ 0) : SameDecoder (shiftMask s) (shiftMask s') :=
  { h with
    mask := by rw [shiftMask_mask, shiftMask_mask, h.mask]
    flags := fun _ => h.flags hm }

theorem sameDecoder_loadFlags (f : Byte) : SameDecoder (loadFlags f s) (loadFlags f s') :=
  { h with mask := rfl, flags := fun _ => rfl }

theorem sameDecoder_loadLengthByte (b : Byte) : SameDecoder (loadLengthByte b s) (loadLengthByte b s') :=
  { h with }

theorem sameDecoder_putByte (b : Byte) : SameDecoder (putByte b s) (putByte b s') := by
  refine { h with outCur := by rw [putByte_outCur, putByte_outCur, h.outCur], output := fun a ha => ?_ }
  by_cases hat : a = s.outCur.toNat
  · have hat' : a = s'.outCur.toNat := by rw [hat, h.outCur]
    rw [hat, outByte_putByte_same, ← hat, hat', outByte_putByte_same]
  · rw [outByte_putByte_ne b s hat, outByte_putByte_ne b s' (by rwa [← h.outCur])]
    rw [putByte_outCur, putByte_outLen] at ha
    exact h.output a (ha.imp_left fun hlt => by bv_omega)

theorem sameDecoder_countDown (hp : s.phase = .copy) : SameDecoder (countDown s) (countDown s') := by
  obtain ⟨hdist, hcount⟩ := h.copying hp
  exact { h with
    phase := by rw [countDown_phase, countDown_phase, hcount]
    copying := fun _ => ⟨hdist, by rw [countDown_count, countDown_count, hcount]⟩ }

theorem sameDecoder_raiseBadDistance (l d : Nat) :
    SameDecoder (raiseFault .badDistance (deliver l d s)) (raiseFault .badDistance (deliver l d s')) :=
  { h with
    phase := rfl
    status := by simp [h.status]
    outLen := h.outCur
    inConsumed := h.inCur
    copying := nofun
    output := fun a ha => h.output a (.inl (or_self_iff.mp ha)) }

theorem completionWarnings_congr : completionWarnings s = completionWarnings s' := by
  obtain ⟨-, hlen, -⟩ := h.stream
  simp only [completionWarnings, truncated, trailing, h.status, h.outCur, h.declLen, h.inCur, hlen]

theorem sameDecoder_finish : SameDecoder (finish s) (finish s') :=
  { h with
    phase := rfl
    status := completionWarnings_congr h
    outLen := h.outCur
    inConsumed := h.inCur
    copying := nofun
    output := fun a ha => h.output a (.inl (or_self_iff.mp ha)) }

/-! ## The token of an iteration -/

theorem sameDecoder_readStream {n : Nat} {go : State → Out}
    (hgo : ∀ {u u'}, SameDecoder u u' → NextRelated SameDecoder (go u) (go u')) :
    NextRelated SameDecoder (readStream n s go) (readStream n s' go) := by
  intro t t' ht ht'
  obtain ⟨-, hlen, -⟩ := h.stream
  have hlen : s.inLen.toNat = s'.inLen.toNat := by rw [hlen]
  have hcur : s.inCur.toNat = s'.inCur.toNat := by rw [h.inCur]
  rcases readStream_next ht with ⟨hshort, rfl⟩ | ⟨hleft, -, ht⟩ <;>
    rcases readStream_next ht' with ⟨hshort', rfl⟩ | ⟨hleft', -, ht'⟩
  · exact sameDecoder_gotoPost h
  · omega
  · omega
  · exact hgo (sameDecoder_advanceIn h n) t t' ht ht'

theorem sameDecoder_runRef (l d : Nat) : NextRelated SameDecoder (runRef l d s) (runRef l d s') := by
  by_cases hbad : d = 0 ∨ s.outCur.toNat < d
  · rw [runRef_of_badDistance hbad, runRef_of_badDistance (by rwa [← h.outCur])]
    exact nextRelated_next (sameDecoder_raiseBadDistance h l d)
  · rw [not_or, Nat.not_lt] at hbad
    obtain ⟨h0, hd⟩ := hbad
    have h1 := Nat.one_le_iff_ne_zero.mpr h0
    have hspace : spaceLeft s = spaceLeft s' := by rw [spaceLeft, spaceLeft, h.declLen, h.outCur]
    rw [runRef_of_legal h1 hd, runRef_of_legal h1 (by rwa [← h.outCur])]
    exact nextRelated_next { h with
      phase := rfl
      status := by rw [h.status, hspace]
      copying := fun _ => ⟨rfl, by rw [hspace]⟩ }

theorem sameDecoder_lit (b : Byte) : NextRelated SameDecoder (exec (.lit b) s) (exec (.lit b) s') := by
  rw [exec_lit, exec_lit]
  refine sameDecoder_readStream h fun hu t t' ht ht' => ?_
  obtain ⟨-, ht⟩ := writeOut_next ht
  obtain ⟨-, ht'⟩ := writeOut_next ht'
  obtain rfl := Host.Outcome.next.inj ht
  obtain rfl := Host.Outcome.next.inj ht'
  exact { sameDecoder_putByte hu b with phase := rfl, copying := nofun }

/-- A back-reference row is one, two or three read steps and what becomes of the reference. -/
theorem sameDecoder_ref {i : Instr} {l d : Nat} (hi : refOperands i = some (l, d)) :
    NextRelated SameDecoder (exec i s) (exec i s') := by
  have last (n l d : Nat) {u u' : State} (hu : SameDecoder u u') :
      NextRelated SameDecoder (readStream n u fun s => runRef l d s) (readStream n u' fun s => runRef l d s) :=
    sameDecoder_readStream hu fun hv => sameDecoder_runRef hv l d
  cases i with
  | refaS t d => exact last 2 _ _ h
  | refbS t d => exact last 2 _ _ h
  | refaM l d => exact sameDecoder_readStream h fun hu => last 1 _ _ hu
  | refbM l d => exact sameDecoder_readStream h fun hu => last 1 _ _ hu
  | refaL l d => exact sameDecoder_readStream h fun hu => sameDecoder_readStream hu fun hv => last 1 _ _ hv
  | refbL l d =>
    exact sameDecoder_readStream h fun hu => sameDecoder_readStream hu fun hv =>
      last 1 _ _ (sameDecoder_loadLengthByte hv _)
  | _ => cases hi

theorem streamByte_inCur_congr (k : Nat) : streamByte s s.inCur.toNat k = streamByte s' s'.inCur.toNat k := by
  rw [streamByte_congr h.stream, h.inCur]

/-! ## The steps of TOP, COPY and POST -/

/-- With the flags fetched, both iterations run the same token. -/
theorem sameDecoder_tokenStep (hm : s.mask ≠ 0) : NextRelated SameDecoder (tokenStep s) (tokenStep s') := by
  have hs := sameDecoder_shiftMask h hm
  have hbits : s.flags &&& s.mask = s'.flags &&& s'.mask := by rw [h.flags hm, h.mask]
  by_cases hbit : s.flags &&& s.mask = 0
  · rw [tokenStep_of_flagBit_clear hbit, tokenStep_of_flagBit_clear (hbits ▸ hbit), streamByte_inCur_congr h]
    exact sameDecoder_lit hs _
  · rw [tokenStep_of_flagBit_set hbit, tokenStep_of_flagBit_set (hbits ▸ hbit)]
    simp only [streamByte_inCur_congr h, h.variant]
    obtain ⟨l, d, hi, -⟩ := decodeRef_operands s'.variant (streamByte s' s'.inCur.toNat 0)
      (streamByte s' s'.inCur.toNat 1) (streamByte s' s'.inCur.toNat 2) (streamByte s' s'.inCur.toNat 3)
    exact sameDecoder_ref hs hi

theorem sameDecoder_topStep (hmax : s.inLen.toNat ≤ s.params.maxInLen) :
    NextRelated SameDecoder (topStep s) (topStep s') := by
  obtain ⟨hparams, hlen, hbytes⟩ := h.stream
  have hfirst : firstMask ≠ 0 := by decide
  by_cases hend : s.declLen.toNat ≤ s.outCur.toNat ∨ s.inLen.toNat ≤ s.inCur.toNat
  · rw [topStep_of_loopEnds hend, topStep_of_loopEnds (by rwa [← h.declLen, ← h.outCur, ← hlen, ← h.inCur])]
    exact nextRelated_next (sameDecoder_gotoPost h)
  · rw [not_or, Nat.not_le, Nat.not_le] at hend
    obtain ⟨hout, hin⟩ := hend
    rw [topStep_of_loopGoesOn hout hin,
      topStep_of_loopGoesOn (by rwa [← h.declLen, ← h.outCur]) (by rwa [← hlen, ← h.inCur]), ← h.mask]
    split
    · rw [flagsStep_eq_of_bytesLeft ⟨hin, hmax⟩ h.variant,
        flagsStep_eq_of_bytesLeft (s := s') ⟨by rwa [← hlen, ← h.inCur], by rwa [← hlen, ← hparams]⟩ rfl,
        ← h.inCur, ← hbytes _ hin]
      exact sameDecoder_tokenStep (sameDecoder_loadFlags (sameDecoder_advanceIn h 1) _) hfirst
    · exact sameDecoder_tokenStep h ‹_›

/-- The byte that a copy step reads back is one both have written (R66, R183). -/
theorem sameDecoder_copyStep (hp : s.phase = .copy) (h1 : 1 ≤ s.dist.toNat) :
    NextRelated SameDecoder (copyStep s) (copyStep s') := by
  intro t t' ht ht'
  obtain ⟨hd, -, rfl⟩ := copyStep_next ht
  obtain ⟨-, -, rfl⟩ := copyStep_next ht'
  rw [← (h.copying hp).1, ← h.outCur, ← h.output _ (.inl (by omega))]
  exact sameDecoder_countDown (sameDecoder_putByte h _) hp

theorem postSkip_congr : postSkip s = postSkip s' := by
  rw [postSkip, postSkip, h.variant, streamByte_inCur_congr h]

theorem sameDecoder_postStep (hmax : s.inLen.toNat ≤ s.params.maxInLen) :
    NextRelated SameDecoder (postStep s) (postStep s') := by
  obtain ⟨hparams, hlen, -⟩ := h.stream
  rw [postStep_eq hmax, postStep_eq (by rwa [← hlen, ← hparams]), postSkip_congr h]
  exact nextRelated_next (sameDecoder_finish (sameDecoder_advanceIn h _))

end Updates

/-! ## The HDR step -/

/-- A header-stage error has no output to show (R227). -/
theorem samePoint_raiseFault {c : ErrCode} (hc : c ≠ .badDistance) {s s' : State} (h : sameStream s s')
    (hstatus : s.status = s'.status) (hdecl : s.declLen = s'.declLen) :
    SamePoint (raiseFault c s) (raiseFault c s') where
  stream := h
  phase := rfl
  status := by rw [raiseFault_status, raiseFault_status, hstatus]
  declLen := hdecl
  outLen := by rw [raiseFault_outLen, raiseFault_outLen, if_neg hc, if_neg hc]
  inConsumed := by rw [raiseFault_inConsumed, raiseFault_inConsumed, if_neg hc, if_neg hc]
  result a ha := by
    rw [raiseFault_outLen, if_neg hc] at ha
    exact absurd ha (Nat.not_lt_zero a)
  decoder := nofun

/-- The tag selects a variant, or is neither (R103). -/
theorem tagSelects_or (s : State) :
    (∃ v, TagSelects s v) ∨ inByte s 0 ≠ s.params.tagA ∧ inByte s 0 ≠ s.params.tagB := by
  by_cases hA : inByte s 0 = s.params.tagA
  · exact .inl ⟨.A, hA⟩
  · by_cases hB : inByte s 0 = s.params.tagB
    · exact .inl ⟨.B, hB, hA⟩
    · exact .inr ⟨hA, hB⟩

section Header
variable {s s' : State} (h : sameStream s s') (hs : Fresh s) (hs' : Fresh s')
include h hs hs'

/-- Initialization gives both decodes the registers that a step can come to read (R43, R106). -/
theorem sameDecoder_initDecode (v : Variant) (n : BitVec 24) :
    SameDecoder (initDecode (acceptHeader v n s)) (initDecode (acceptHeader v n s')) where
  stream := h
  phase := rfl
  status := by simp [hs.status, hs'.status]
  declLen := rfl
  outLen := hs.outLen.trans hs'.outLen.symm
  inConsumed := hs.inConsumed.trans hs'.inConsumed.symm
  variant := rfl
  inCur := rfl
  outCur := rfl
  mask := rfl
  flags := fun hm => absurd rfl hm
  copying := nofun
  output a ha := by
    have hlen : (initDecode (acceptHeader v n s)).outLen = 0 := hs.outLen
    rw [hlen] at ha
    exact absurd (or_self_iff.mp ha) (Nat.not_lt_zero a)

/-- Past the size check the allocation check goes the same way for both (R105, R106). -/
theorem samePoint_runHeader (hsize : sizeBad s = false) (hsize' : sizeBad s' = false) (v : Variant) (n : BitVec 24) :
    NextRelated SamePoint (runHeader v n s) (runHeader v n s') := by
  have ⟨hparams, _, _⟩ := h
  by_cases hn : s.params.outCap.toNat < n.toNat
  · have hstatus : (acceptHeader v n s).status = (acceptHeader v n s').status := by simp [hs.status, hs'.status]
    rw [runHeader_alloc v hsize hn, runHeader_alloc v hsize' (by rwa [← hparams])]
    exact nextRelated_next (samePoint_raiseFault (by decide) h hstatus rfl)
  · rw [Nat.not_lt] at hn
    rw [runHeader_accepted v hsize hn, runHeader_accepted v hsize' (by rwa [← hparams])]
    exact nextRelated_next (sameDecoder_initDecode h hs hs' v n).samePoint

theorem samePoint_hdrStep : NextRelated SamePoint (hdrStep s) (hdrStep s') := by
  have ⟨hparams, hlen, hbytes⟩ := h
  have hsize : sizeBad s = sizeBad s' := by rw [sizeBad, sizeBad, hparams, hlen]
  have hclear : s.status = s'.status := hs.status.trans hs'.status.symm
  have hdecl : s.declLen = s'.declLen := hs.declLen.trans hs'.declLen.symm
  by_cases hbad : sizeBad s = true
  · rw [hdrStep_sizeBad hbad, hdrStep_sizeBad (hsize ▸ hbad)]
    exact nextRelated_next (samePoint_raiseFault (by decide) h hclear hdecl)
  rw [sizeBad_iff, not_or, Nat.not_lt, Nat.not_lt] at hbad
  obtain ⟨h4, hmax⟩ := hbad
  have hbyte (k : Nat) (hk : k < 4) : inByte s k = inByte s' k := hbytes k (by omega)
  have h4' : 4 ≤ s'.inLen.toNat := hlen ▸ h4
  have hmax' : s'.inLen.toNat ≤ s'.params.maxInLen := by rwa [← hlen, ← hparams]
  rcases tagSelects_or s with ⟨v, htag⟩ | ⟨hA, hB⟩
  · have htag' : TagSelects s' v := by
      cases v <;> simpa only [TagSelects, ← hparams, ← hbyte 0 (by decide)] using htag
    have hlength : declaredLength s = declaredLength s' := by
      rw [declaredLength, declaredLength, hbyte 1 (by decide), hbyte 2 (by decide), hbyte 3 (by decide)]
    rw [hdrStep_of_tagSelects h4 hmax htag, hdrStep_of_tagSelects h4' hmax' htag', hlength]
    exact samePoint_runHeader h hs hs' (sizeBad_eq_false h4 hmax) (sizeBad_eq_false h4' hmax') v _
  · have hA' : inByte s' 0 ≠ s'.params.tagA := by rwa [← hbyte 0 (by decide), ← hparams]
    have hB' : inByte s' 0 ≠ s'.params.tagB := by rwa [← hbyte 0 (by decide), ← hparams]
    rw [hdrStep_badTag h4 hmax hA hB, hdrStep_badTag h4' hmax' hA' hB']
    exact nextRelated_next (samePoint_raiseFault (by decide) h hclear hdecl)

end Header

/-! ## Runs in lockstep -/

/-- Every step of the block keeps two runs at the same point (R261). -/
theorem samePoint_blockStep {s s' : State} (h : SamePoint s s') (hs : s.Inv) (hs' : s'.Inv) :
    NextRelated SamePoint (blockStep s) (blockStep s') := by
  have hphase := h.phase
  have rest (hb : s.phase.busy = false) : NextRelated SamePoint (blockStep s) (blockStep s') := by
    rw [blockStep_of_not_busy hb, blockStep_of_not_busy (hphase ▸ hb)]
    exact nextRelated_next h
  have decode {o o' : Out} (hd : NextRelated SameDecoder o o') : NextRelated SamePoint o o' :=
    hd.mono fun _ _ => SameDecoder.samePoint
  cases hp : s.phase with
  | idle | done | error => exact rest (by rw [hp]; rfl)
  | hdr =>
    have hp' := hphase.symm.trans hp
    rw [blockStep_hdr hp, blockStep_hdr hp']
    exact samePoint_hdrStep h.stream ((inv_iff_of_idle_or_hdr (.inr hp)).mp hs)
      ((inv_iff_of_idle_or_hdr (.inr hp')).mp hs')
  | top =>
    have hlive : Live s := ((inv_iff_of_top_or_post (.inl hp)).mp hs).1
    rw [blockStep_top hp, blockStep_top (hphase.symm.trans hp)]
    exact decode (sameDecoder_topStep (h.decoder (by rw [hp]; rfl)) hlive.inLen_le)
  | copy =>
    obtain ⟨-, h1, -⟩ := copy_bounds hs hp
    rw [blockStep_copy hp, blockStep_copy (hphase.symm.trans hp)]
    exact decode (sameDecoder_copyStep (h.decoder (by rw [hp]; rfl)) hp h1)
  | post =>
    have hlive : Live s := ((inv_iff_of_top_or_post (.inr hp)).mp hs).1
    rw [blockStep_post hp, blockStep_post (hphase.symm.trans hp)]
    exact decode (sameDecoder_postStep (h.decoder (by rw [hp]; rfl)) hlive.inLen_le)

/-- Two runs of the block alone at the same point, in states that meet the invariant. -/
structure Lockstep (s s' : State) : Prop extends SamePoint s s' where
  inv : s.Inv
  inv' : s'.Inv
  agenda : s.agenda = []
  agenda' : s'.agenda = []

/-- In HDR the same stream is all that two runs need to have in common. -/
theorem lockstep_of_hdr {s s' : State} (hs : s.Inv) (hs' : s'.Inv) (hag : s.agenda = []) (hag' : s'.agenda = [])
    (hp : s.phase = .hdr) (hp' : s'.phase = .hdr) (h : sameStream s s') : Lockstep s s' := by
  have hf := (inv_iff_of_idle_or_hdr (.inr hp)).mp hs
  have hf' := (inv_iff_of_idle_or_hdr (.inr hp')).mp hs'
  exact {
    stream := h
    phase := hp.trans hp'.symm
    status := hf.status.trans hf'.status.symm
    declLen := hf.declLen.trans hf'.declLen.symm
    outLen := hf.outLen.trans hf'.outLen.symm
    inConsumed := hf.inConsumed.trans hf'.inConsumed.symm
    result := fun a ha => by
      rw [hf.outLen] at ha
      exact absurd ha (Nat.not_lt_zero a)
    decoder := fun hd => by rw [hp] at hd; cases hd
    inv := hs
    inv' := hs'
    agenda := hag
    agenda' := hag' }

section Lockstep
variable {s s' : State} (h : Lockstep s s')
include h

theorem lockstep_of_step {t t' : State} (ht : step s = .next t) (ht' : step s' = .next t') : Lockstep t t' :=
  { samePoint_blockStep h.toSamePoint h.inv h.inv' t t' (step_of_agenda_nil h.agenda ▸ ht)
      (step_of_agenda_nil h.agenda' ▸ ht') with
    inv := stepKeepsInvariant s t h.inv ht
    inv' := stepKeepsInvariant s' t' h.inv' ht'
    agenda := run_agenda_nil (n := 1) h.agenda (run_succ_of_next ht 0)
    agenda' := run_agenda_nil (n := 1) h.agenda' (run_succ_of_next ht' 0) }

theorem outputBytes_congr : outputBytes s = outputBytes s' := by
  rw [outputBytes, outputBytes, ← h.outLen]
  exact List.map_congr_left fun a ha => h.result a (List.mem_range.mp ha)

theorem observe_congr : observe s = observe s' := by
  have houtput : observedOutput s = observedOutput s' := by
    rw [observedOutput, observedOutput, h.status, outputBytes_congr h]
  rw [observe, observe, h.phase, h.status, h.declLen, h.outLen, h.inConsumed, houtput]

end Lockstep

theorem lockstep_of_run {n : Nat} {s s' t t' : State} (h : Lockstep s s') (ht : run n s = .next t)
    (ht' : run n s' = .next t') : Lockstep t t' := by
  induction n generalizing s s' with
  | zero =>
    obtain rfl := Host.Outcome.next.inj ((run_zero s).symm.trans ht)
    obtain rfl := Host.Outcome.next.inj ((run_zero s').symm.trans ht')
    exact h
  | succ n ih =>
    obtain ⟨u, hu, ht⟩ := run_succ_inv ht
    obtain ⟨u', hu', ht'⟩ := run_succ_inv ht'
    exact ih (lockstep_of_step h hu hu') ht ht'

/-- Two runs in lockstep end together, and show the same at their end (R260). -/
theorem endOfRun_observe_congr {n : Nat} {s s' : State} (h : Lockstep s s') :
    (endOfRun n s).bind observe = (endOfRun n s').bind observe := by
  induction n generalizing s s' with
  | zero =>
    unfold endOfRun
    rw [← h.phase]
    split
    · exact observe_congr h
    · rfl
  | succ n ih =>
    cases hb : s.phase.busy with
    | true =>
      obtain ⟨t, ht⟩ := blockNeverFaults s h.inv (blocksTurn_of_agenda_nil h.agenda)
      obtain ⟨t', ht'⟩ := blockNeverFaults s' h.inv' (blocksTurn_of_agenda_nil h.agenda')
      rw [endOfRun_of_busy hb ht, endOfRun_of_busy (h.phase ▸ hb) ht']
      exact ih (lockstep_of_step h ht ht')
    | false =>
      unfold endOfRun
      rw [← h.phase, hb]
      split
      · exact observe_congr h
      · rfl

/-- Settles O58: the two runs go in lockstep from HDR, by a simulation that leaves out what the spec leaves
unspecified. -/
theorem observationDependsOnStreamAlone : Obligations.ObservationDependsOnStreamAlone := by
  intro s s' hs hs' hag hag' hp hp' hstream
  have h : Lockstep s s' := lockstep_of_hdr hs hs' hag hag' hp hp' hstream
  refine ⟨fun n t t' ht ht' => ?_, fun n => ?_⟩
  · have hend : Lockstep t t' := lockstep_of_run h ht ht'
    exact ⟨hend.phase, observe_congr hend, outputBytes_congr hend⟩
  · rw [observeRun, observeRun, if_pos hp, if_pos hp']
    exact endOfRun_observe_congr h

end Sys2Proof.Proofs
end
